-- ==== Sys2Proof/Word.lean ====
section
/-!
DEFINITION. Sys2Proof/Word.lean: the words of framebuffer_pixel_ram. A cell, a table byte, a message character and
an 8-bit operand are bytes (R8, R9); a command is one 32-bit word (R81).
-/

namespace Sys2Proof

/-- A cell value, a table byte, a character code or an 8-bit operand (R8, R9). -/
abbrev Byte := BitVec 8

/-- The message length operand of DRAW_TEXT, 16 bits unsigned (R8, R81). -/
abbrev Len := BitVec 16

/-- A command word as the host presents it on the command port (R81). -/
abbrev CommandWord := BitVec 32

/-- The contents of a GlyphTable, one entry per code of its range; an entry is its width byte and then its
column-bytes from left to right (R150, R151). -/
abbrev GlyphTable := List (List Byte)

end Sys2Proof
end

