-- ==== Sys2Proof/Config.lean ====
section
/-!
DEFINITION. Sys2Proof/Config.lean: what is fixed for this hardware (R6, R7), the two parameters 92_eei_decisions.md
leaves OPEN with a default (RESET_DIRTY, TEXT_BOUND_INCLUSIVE), and the one free value: what the data channel answers
when the environment has listed no answer (R181, U5, U6).
-/

namespace Sys2Proof

/-- What the data channel answers to one transaction (R181): it took the whole sequence, or it failed after taking
`taken` bytes, any number in 0..1056 (R183, U5). -/
inductive ChanAnswer where
  | ok
  | fail (taken : Fin 1057)
  deriving DecidableEq, Repr, Inhabited

namespace Config

/-- Visible columns of a page (R6). -/
def pixelWidth : Nat := 128

/-- Visible pixel rows (R6). -/
def pixelHeight : Nat := 64

/-- Cells of a page, 128 visible and 4 padding (R6). -/
def bufferWidth : Nat := 132

/-- Pages of the Buffer (R6). -/
def pageCount : Nat := 8

/-- Pixel rows of a page, bits of a cell (R6). -/
def pixInPage : Nat := 8

/-- Cells of the Buffer (R6). -/
def bufferCount : Nat := 1056

/-- Blank columns DRAW_TEXT writes for an unmapped character (R6). -/
def blankWidth : Nat := 5

/-- Blank columns DRAW_TEXT writes after a mapped glyph (R6). -/
def spacerWidth : Nat := 1

/-- The character code of a space (R8, G1). -/
def spaceCode : Byte := 0x20

/-- RESET_DIRTY, the value of Dirty after reset: OPEN in 92_eei_decisions.md, at the default that R37 states (D23).
DESIGN CHOICE, unsafe for claims about the number of transactions (log 4). -/
def resetDirty : Bool := false

/-- TEXT_BOUND_INCLUSIVE, whether text may write column 128: OPEN in 92_eei_decisions.md, at the default that R157
states (D13). DESIGN CHOICE, unsafe for claims about padding column 128 (log 5). -/
def textBoundInclusive : Bool := false

/-- The free answer of the data channel to transaction number `n` (counting from 0) when the environment's list of
answers is used up: `ok` or `fail` is the environment's to decide (R181, U6), and so is the number of bytes taken (U5).
It has no body, so no proof can rest on what it answers (log 6). -/
opaque channelAnswer : Nat → ChanAnswer

end Config

end Sys2Proof
end

