-- ==== Sys2Proof/Syntax.lean ====
section
/-!
DEFINITION. Sys2Proof/Syntax.lean: the ten commands of R82, one constructor per row of spec/opcode_table.json, and what
the host presents beside a command word (R86). An operand is the unsigned field of the word, unscaled (R83); every value
of it is a command, because the spec says what an out-of-range one does.
-/

namespace Sys2Proof

/-- The ten commands (R82). A reserved opcode is no command of this type: `Decoded.illegal` of Sys2Proof/Decode.lean. -/
inductive Instr where
  /-- CLEAR (R110). -/
  | clear
  /-- CLEAR_ROW row (R111). -/
  | clearRow (row : Byte)
  /-- LOAD_IMAGE blob (R113); the blob travels as payload. -/
  | loadImage
  /-- DRAW_HLINE y (R133). -/
  | drawHline (y : Byte)
  /-- DRAW_TEXT message, row (R155); the message's characters travel as payload, their number is `len`. -/
  | drawText (row : Byte) (len : Len)
  /-- DRAW_CHAR code, x, row (R163). -/
  | drawChar (code x row : Byte)
  /-- FLUSH (R182). -/
  | flush
  /-- ATTACH_FONT table, start, end (R153); the table travels as payload. -/
  | attachFont (first last : Byte)
  /-- DETACH_FONT (R154). -/
  | detachFont
  /-- READ_PIXEL x, y (R132). -/
  | readPixel (x y : Byte)
  deriving DecidableEq, Repr

/-- What the host presents on the table ports together with a command word (R86, R90): nothing, an ImageBlob, a message,
or (with ATTACH_FONT) the table that becomes `G`. -/
inductive Payload where
  | absent
  | blob (bytes : List Byte)
  | message (chars : List Byte)
  | table (entries : GlyphTable)
  deriving DecidableEq, Repr

/-- A command as the host issues it: the word with its payload (R86). -/
structure HostCommand where
  word : CommandWord
  payload : Payload
  deriving DecidableEq, Repr

/-- The mnemonic of R82's table. -/
def Instr.mnemonic : Instr → String
  | .clear => "CLEAR"
  | .clearRow _ => "CLEAR_ROW"
  | .loadImage => "LOAD_IMAGE"
  | .drawHline _ => "DRAW_HLINE"
  | .drawText _ _ => "DRAW_TEXT"
  | .drawChar _ _ _ => "DRAW_CHAR"
  | .flush => "FLUSH"
  | .attachFont _ _ => "ATTACH_FONT"
  | .detachFont => "DETACH_FONT"
  | .readPixel _ _ => "READ_PIXEL"

end Sys2Proof
end

