-- ==== Sys2Proof/Machine/State.lean ====
section
/-!
DEFINITION. Sys2Proof/Machine/State.lean: the state (R20, R24, R26, R30, R34, R39), the responses and events of R88 and R89,
the causes of R208, and what a step can stop with.
-/

namespace Sys2Proof.Machine

/-- The Buffer as the list of its nonzero cells, addresses strictly rising; a cell not listed holds 0, its reset content
(R37, D22; log 2). -/
abbrev Memory := List Host.Cell

/-- The canonical form of the Buffer: addresses strictly rising, all of them cells of the Buffer (R20), no listed cell 0. -/
abbrev Memory.wf (m : Memory) : Prop :=
  m.Pairwise (fun c d => c.1 < d.1) ∧ ∀ c ∈ m, c.1 < Config.bufferCount ∧ c.2 ≠ 0#8

/-- The two kinds of transaction on the data channel (R181). -/
inductive ChanMode where
  | data
  | command
  deriving DecidableEq, Repr

/-- An entry of the channel log: what was sent, and what the channel answered (R30, R189). -/
structure Transaction where
  mode : ChanMode
  bytes : List Byte
  answer : ChanAnswer
  deriving DecidableEq, Repr

/-- What the framing of a transaction shows on the channel, without any signal level (R181, U11). -/
inductive BusEvent where
  | driveMode (mode : ChanMode)
  | assertSelect
  | byte (b : Byte)
  | deassertSelect
  deriving DecidableEq, Repr

/-- The diagnostic events with their payloads (R89). -/
inductive DiagEvent where
  | rowRange (row : Byte)
  | yRange (y : Byte)
  | unmappedGlyph (code : Byte)
  | illegalCommand (op : Byte)
  | pixelRange (x y : Byte)
  deriving DecidableEq, Repr

/-- The statuses of a response (R88). -/
inductive Status where
  | ok
  | errRange
  | errTx
  | errIllegal
  deriving DecidableEq, Repr

/-- What a command answers when it completes (R88). The value is 0 but for READ_PIXEL; a natural number (R9). -/
structure Response where
  status : Status
  value : Nat
  deriving DecidableEq, Repr

/-- The causes that end a command with an error status (R208): the rows of categories (a), (d), (e) and (f). -/
inductive ErrorCause where
  | rowRange (row : Byte)
  | yRange (y : Byte)
  | txFailure
  | illegal (op : Byte)
  | pixelRange (x y : Byte)
  deriving DecidableEq, Repr

/-- The state. The first five fields are the block's own (R20, R34); `chan` and `diagLog` are the two environment records
(R30); the others are step parameters and observables the spec names, kept as the model's own plain data. -/
structure State where
  /-- The Buffer (R20). -/
  buffer : Memory
  /-- Dirty (R24). -/
  dirty : Bool
  /-- FontAttached (R26). -/
  fontAttached : Bool
  /-- StartChar (R26). -/
  startChar : Byte
  /-- EndChar (R26). -/
  endChar : Byte
  /-- `G`, the contents of the attached GlyphTable, a step parameter (R27, R151); log 7. -/
  glyphs : GlyphTable
  /-- Chan, the channel log, oldest entry first (R30, R189). -/
  chan : List Transaction
  /-- DiagLog, oldest event first (R30, R201). -/
  diagLog : List DiagEvent
  /-- The responses produced, oldest first (R88); log 10. -/
  responses : List Response
  /-- The channel's coming answers, one per transmitting FLUSH (R181, R244); log 6. -/
  answers : List ChanAnswer
  /-- The host's command list (R32, R244); log 1. -/
  program : List HostCommand
  /-- The index into the host's command list (R32); log 1. -/
  pc : Nat
  deriving DecidableEq, Repr

/-- Why a step may stop with a fault. -/
inductive Fault where
  /-- An access outside the Buffer, cell index `i` ≥ 1056: raised by the bounds-checked accessors `State.load` and
  `State.store`. Safe. By R53 no command ever computes such an index, so no step raises it (log 14). -/
  | cellOutOfRange (i : Nat)
  deriving DecidableEq, Repr

/-- Why a step may be refused: the presentation is none the host may make (R87, D29), so it is no command of the model. -/
inductive Refusal where
  /-- A command without its meaning in this model: raised by the arms of `exec` only. Safe. -/
  | notModelled (mnemonic : String)
  /-- A payload with a command that takes none (R87): raised by `State.expectNone`. Safe (log 8). -/
  | strayPayload
  /-- No payload, or one of another kind, with a command that takes one (R86, R87): raised by `State.expectBlob`,
  `State.expectMessage`, `State.expectTable`. Safe (log 8). -/
  | payloadKind
  /-- A blob that is not of 1056 bytes (U1): raised by `State.expectBlob`. Safe (log 8). -/
  | blobLength
  /-- A message that is not of `len` characters (U1): raised by `State.expectMessage`. Safe (log 8). -/
  | messageLength
  /-- A GlyphTable that is not well-formed for its range (U2): raised by ATTACH_FONT, and by the text commands in a state
  that no run reaches. Safe (log 9). -/
  | malformedTable
  deriving DecidableEq, Repr

/-- The state right after construction (R37, R230), with Dirty's reset value a parameter (RESET_DIRTY, D23). StartChar and
EndChar are unspecified there; 0 is a DESIGN CHOICE (log 3). -/
def State.resetWith (dirty : Bool) : State where
  buffer := []
  dirty := dirty
  fontAttached := false
  startChar := 0#8
  endChar := 0#8
  glyphs := []
  chan := []
  diagLog := []
  responses := []
  answers := []
  program := []
  pc := 0

/-- The state right after reset (R37, R230). -/
def State.reset : State := State.resetWith Config.resetDirty

end Sys2Proof.Machine
end

