-- ==== Sys2Proof/WellFormed.lean ====
section
/-!
DEFINITION. Sys2Proof/WellFormed.lean: which payload may stand beside which command (R86, R87, U1) and which GlyphTable is
well-formed for its range (R151, U2). The words themselves need no check: R83 admits every value of every operand.
-/

namespace Sys2Proof

/-- An ImageBlob has exactly 1056 bytes (R113, R114, U1). -/
def blobWf (bytes : List Byte) : Bool := bytes.length == Config.bufferCount

/-- A message has exactly `len` characters (R86, U1). -/
def messageWf (len : Len) (chars : List Byte) : Bool := chars.length == len.toNat

/-- A glyph entry is a width byte and that many column-bytes (R150, R151). -/
def entryWf : List Byte → Bool
  | [] => false
  | width :: cols => cols.length == width.toNat

/-- A table is well-formed for the range `first..last`: it has one entry per code when the range is not empty, and every
entry is well-formed (R151, U2). -/
def tableWf (first last : Byte) (g : GlyphTable) : Bool :=
  (decide (last.toNat < first.toNat) || g.length == last.toNat - first.toNat + 1) && g.all entryWf

/-- The payload is one the host may present with this command (R87, U1, U2). -/
def Instr.payloadWf (i : Instr) (p : Payload) : Bool :=
  match i with
  | .loadImage =>
    match p with
    | .blob bytes => blobWf bytes
    | _ => false
  | .drawText _ len =>
    match p with
    | .message chars => messageWf len chars
    | _ => false
  | .attachFont first last =>
    match p with
    | .table g => tableWf first last g
    | _ => false
  | .clear | .clearRow _ | .drawHline _ | .drawChar _ _ _ | .flush | .detachFont | .readPixel _ _ =>
    decide (p = .absent)

end Sys2Proof
end

