-- ==== Sys2Proof/Machine/Operands.lean ====
section
/-!
DEFINITION. Sys2Proof/Machine/Operands.lean: how operands become Buffer indices, bits and column-bytes: the composer
(R130), the spans of R66, the row clamp (R156), and the glyph lookup (R150 to R152). All arithmetic is on natural numbers,
exact (R9, R137).
-/

namespace Sys2Proof.Machine

/-- The cell at a page and column: `page·132 + column` (R21). -/
def cellAt (page column : Nat) : Nat := page * Config.bufferWidth + column

/-- The page of pixel row `y` (R130). -/
def pageOf (y : Nat) : Nat := y / Config.pixInPage

/-- The page as the line drawer computes it (R133); R134 says it is `pageOf` for `y < 64`. -/
def linePage (y : Nat) : Nat := (y * Config.pixInPage) / Config.pixelHeight

/-- The bit of pixel row `y` in its cell (R130). -/
def bitIndex (y : Nat) : Nat := y % Config.pixInPage

/-- The cell of pixel (x, y) (R130). -/
def cellIndex (x y : Nat) : Nat := cellAt (pageOf y) x

/-- The byte with only bit `bitIndex y` set (R130). -/
def bitMask (y : Nat) : Byte := 1#8 <<< bitIndex y

/-- Cells of the page span of CLEAR_ROW and DRAW_HLINE: 128 visible columns and padding column 128 (R112, R136). -/
def spanWidth : Nat := Config.pixelWidth + 1

/-- The row of a text command, clamped to the last page (R156, R165). -/
def clampRow (row : Byte) : Nat :=
  if Config.pageCount ≤ row.toNat then Config.pageCount - 1 else row.toNat

/-- The first cell of a text row (R155). -/
def rowBase (row : Byte) : Nat := cellAt (clampRow row) 0

/-- The exclusive bound of a text row (R155, R157); one more if TEXT_BOUND_INCLUSIVE (D13, log 5). -/
def rowEnd (row : Byte) : Nat :=
  rowBase row + Config.pixelWidth + (if Config.textBoundInclusive then 1 else 0)

/-- The character code is inside the attached table's range (R152). -/
def mapped (s : State) (code : Byte) : Bool :=
  decide (s.startChar.toNat ≤ code.toNat) && decide (code.toNat ≤ s.endChar.toNat)

/-- `GlyphRead(g, k)`: byte `k` of entry `g` of the attached table (R151); 0 past the end of an ill-formed table, which no
text command reads (`State.withTable`). -/
def glyphRead (s : State) (g k : Nat) : Byte := (s.glyphs.getD g []).getD k 0#8

/-- The columns of the glyph of a mapped code, left to right: `GlyphRead(g, 1)` to `GlyphRead(g, w)` with
`g = code − StartChar` and `w = GlyphRead(g, 0)` (R152, R159). -/
def glyphColumns (s : State) (code : Byte) : List Byte :=
  let g := code.toNat - s.startChar.toNat
  (List.range (glyphRead s g 0).toNat).map fun k => glyphRead s g (1 + k)

/-- The columns DRAW_TEXT emits for one character: the glyph and its spacer (R159), or five blanks (R158). -/
def charColumns (s : State) (ch : Byte) : List Byte :=
  if mapped s ch then glyphColumns s ch ++ List.replicate Config.spacerWidth 0#8
  else List.replicate Config.blankWidth 0#8

/-- The columns of a whole message, before the row-end bound (R155). -/
def textColumns (s : State) (chars : List Byte) : List Byte := chars.flatMap (charColumns s)

/-- The events of a message: one for each unmapped character that is no space, in message order (R158, R161, R204). -/
def textEvents (s : State) (chars : List Byte) : List DiagEvent :=
  (chars.filter fun ch => !mapped s ch && ch != Config.spaceCode).map DiagEvent.unmappedGlyph

end Sys2Proof.Machine
end

