-- ==== Sys2Proof/Decode.lean ====
section
/-!
DEFINITION. Sys2Proof/Decode.lean: the command word (R81), decoding by `op` alone, total on all 32-bit words (R82, R87),
and the encoder written from the same table.
-/

namespace Sys2Proof

/-- The word with fields `{op, a, b, c}`, `op` in the most significant byte (R81). -/
def pack (op a b c : Byte) : CommandWord := op ++ a ++ b ++ c

/-- Field `op`, bits 31:24 (R81). -/
def opField (w : CommandWord) : Byte := w.extractLsb' 24 8

/-- Field `a`, bits 23:16 (R81). -/
def aField (w : CommandWord) : Byte := w.extractLsb' 16 8

/-- Field `b`, bits 15:8 (R81). -/
def bField (w : CommandWord) : Byte := w.extractLsb' 8 8

/-- Field `c`, bits 7:0 (R81). -/
def cField (w : CommandWord) : Byte := w.extractLsb' 0 8

/-- Field `len`, bits 15:0, that is `{b, c}` (R81). -/
def lenField (w : CommandWord) : Len := w.extractLsb' 0 16

/-- What a word decodes to (R87): one of the ten commands, or the illegal command of R85 with its opcode byte. -/
inductive Decoded where
  | command (i : Instr)
  | illegal (op : Byte)
  deriving DecidableEq, Repr

/-- The decoder (R82): `op` selects the command, operands come straight from their fields (R83), fields marked ignored
play no part (R84), and every other opcode is reserved (R85). -/
def decode (w : CommandWord) : Decoded :=
  match (opField w).toNat with
  | 0x01 => .command .clear
  | 0x02 => .command (.clearRow (aField w))
  | 0x03 => .command .loadImage
  | 0x04 => .command (.drawHline (aField w))
  | 0x05 => .command (.drawText (aField w) (lenField w))
  | 0x06 => .command (.drawChar (aField w) (bField w) (cField w))
  | 0x07 => .command .flush
  | 0x08 => .command (.attachFont (aField w) (bField w))
  | 0x09 => .command .detachFont
  | 0x0A => .command (.readPixel (aField w) (bField w))
  | _ => .illegal (opField w)

/-- The encoder (R82, R90); an ignored field is 0, as an assembler emits it (R84). -/
def encode : Instr → CommandWord
  | .clear => pack 0x01 0 0 0
  | .clearRow row => pack 0x02 row 0 0
  | .loadImage => pack 0x03 0 0 0
  | .drawHline y => pack 0x04 y 0 0
  | .drawText row len => pack 0x05 row (len.extractLsb' 8 8) (len.extractLsb' 0 8)
  | .drawChar code x row => pack 0x06 code x row
  | .flush => pack 0x07 0 0 0
  | .attachFont first last => pack 0x08 first last 0
  | .detachFont => pack 0x09 0 0 0
  | .readPixel x y => pack 0x0A x y 0

/-- A row of the opcode map: a word `w` is this command iff `w &&& mask = pattern` (R82). -/
structure OpcodeRow where
  mnemonic : String
  mask : CommandWord
  pattern : CommandWord
  deriving DecidableEq, Repr

/-- The opcode map as R82 prints it. -/
def opcodeTable : List OpcodeRow :=
  [⟨"CLEAR", 0xFF000000, 0x01000000⟩, ⟨"CLEAR_ROW", 0xFF000000, 0x02000000⟩,
   ⟨"LOAD_IMAGE", 0xFF000000, 0x03000000⟩, ⟨"DRAW_HLINE", 0xFF000000, 0x04000000⟩,
   ⟨"DRAW_TEXT", 0xFF000000, 0x05000000⟩, ⟨"DRAW_CHAR", 0xFF000000, 0x06000000⟩,
   ⟨"FLUSH", 0xFF000000, 0x07000000⟩, ⟨"ATTACH_FONT", 0xFF000000, 0x08000000⟩,
   ⟨"DETACH_FONT", 0xFF000000, 0x09000000⟩, ⟨"READ_PIXEL", 0xFF000000, 0x0A000000⟩]

/-- The command read from a word, none where the word is the illegal command. -/
def Decoded.command? : Decoded → Option Instr
  | .command i => some i
  | .illegal _ => none

/-- The word of the `nbits` bits `w` numbered as spec/opcode_table.json numbers them; bits above `nbits` are 0. A command is
one 32-bit value with no memory representation (R55, R81), so the word's own bit numbering is the table's. -/
def tableWord (nbits w : Nat) : CommandWord := BitVec.ofNat 32 (w % 2 ^ nbits)

/-- The command the decoder reads from an opcode-table word, none where it is the illegal command. -/
def decodeTableWord (nbits w : Nat) : Option Instr := (decode (tableWord nbits w)).command?

end Sys2Proof
end

