-- ==== Sys2Proof/Machine/Flags.lean ====
section
/-!
DEFINITION. Sys2Proof/Machine/Flags.lean: the two flags, Dirty and FontAttached, and the font registers beside the latter
(R24 to R26, R33, R34). The only writers of these registers.
-/

namespace Sys2Proof.Machine

/-- `Dirty <- 1`: marking is by command, not by comparison of cell values (R24). -/
def State.markDirty (s : State) : State := { s with dirty := true }

/-- `Dirty <- 0`, after a successful transmission only (R25). -/
def State.clearDirty (s : State) : State := { s with dirty := false }

/-- `StartChar <- first; EndChar <- last; FontAttached <- 1`, and the table becomes `G` (R153). -/
def State.attach (s : State) (first last : Byte) (g : GlyphTable) : State :=
  { s with startChar := first, endChar := last, fontAttached := true, glyphs := g }

/-- `FontAttached <- 0`; StartChar and EndChar keep their values and mean nothing from here on (R154). -/
def State.detach (s : State) : State := { s with fontAttached := false }

end Sys2Proof.Machine
end

