-- ==== Sys2Proof/Machine/Ops.lean ====
section
/-!
DEFINITION. Sys2Proof/Machine/Ops.lean: the named operations: the Buffer (R11, R52), the command port and its payload
(R86, R87), responses and events (R88, R89), raising an error (R13, R209), the data channel (R181, R189), and the host's
command list (R32, R244).
-/

namespace Sys2Proof.Machine

/-- What a step and each of its parts answer. -/
abbrev Result := Host.Outcome State Fault Refusal

/-- Go on from a next state; a fault or a refusal stays. -/
def andThen (o : Result) (k : State → Result) : Result :=
  match o with
  | .next s => k s
  | .fault r => .fault r
  | .refused r => .refused r

/-! ## The Buffer -/

/-- `Buffer[i]` (R11): the listed value, and 0 for a cell not listed (R37). -/
def Memory.read : Memory → Nat → Byte
  | [], _ => 0#8
  | (k, v) :: rest, i => if k < i then Memory.read rest i else if k = i then v else 0#8

/-- The nonzero cells of the bytes `bs` laid out from cell `a` on. -/
def Memory.cells : Nat → List Byte → Memory
  | _, [] => []
  | a, b :: bs => if b = 0#8 then Memory.cells (a + 1) bs else (a, b) :: Memory.cells (a + 1) bs

/-- `Buffer[a + k] <- bs[k]` for every `k`, all at once (R59). -/
def Memory.writeRun (m : Memory) (a : Nat) (bs : List Byte) : Memory :=
  m.takeWhile (fun c => decide (c.1 < a)) ++ Memory.cells a bs ++
    m.dropWhile (fun c => decide (c.1 < a + bs.length))

/-- `Buffer[a], …, Buffer[a + n − 1]`; cells already passed are dropped from the list as it goes. -/
def Memory.readRun (m : Memory) (a : Nat) : Nat → List Byte
  | 0 => []
  | n + 1 => m.read a :: Memory.readRun (m.dropWhile fun c => decide (c.1 < a + 1)) (a + 1) n

/-- Read `n` cells from `a` on, bounds-checked (R53, log 14). -/
def State.load (s : State) (a n : Nat) (k : List Byte → Result) : Result :=
  if n = 0 ∨ a + n ≤ Config.bufferCount then k (s.buffer.readRun a n)
  else .fault (.cellOutOfRange (a + n - 1))

/-- The state with the Buffer replaced. -/
def State.setBuffer (s : State) (m : Memory) : State := { s with buffer := m }

/-- Write the cells `bs` from `a` on, bounds-checked (R53, log 14). -/
def State.store (s : State) (a : Nat) (bs : List Byte) : Result :=
  if bs = [] ∨ a + bs.length ≤ Config.bufferCount then
    .next (s.setBuffer (s.buffer.writeRun a bs))
  else .fault (.cellOutOfRange (a + bs.length - 1))

/-- The serialization of the Buffer: `Buffer[0], …, Buffer[1055]` (R62). -/
def State.serialize (s : State) : List Byte := s.buffer.readRun 0 Config.bufferCount

/-! ## Responses, events, errors -/

/-- The numeric code of a status (R88). -/
def Status.code : Status → Nat
  | .ok => 0
  | .errRange => 1
  | .errTx => 2
  | .errIllegal => 3

/-- The numeric code of an event (R89). -/
def DiagEvent.code : DiagEvent → Nat
  | .rowRange _ => 1
  | .yRange _ => 2
  | .unmappedGlyph _ => 3
  | .illegalCommand _ => 4
  | .pixelRange _ _ => 5

/-- `return status, value`: the command's response (R13, R88). -/
def State.respond (s : State) (status : Status) (value : Nat) : State :=
  { s with responses := s.responses ++ [⟨status, value⟩] }

/-- `Diag(event)` for each event, in order (R12, R89). -/
def State.report (s : State) (events : List DiagEvent) : State :=
  { s with diagLog := s.diagLog ++ events }

/-- The event of a cause, if its category has one (R208): a transmission failure has none (R205). -/
def ErrorCause.events : ErrorCause → List DiagEvent
  | .rowRange row => [.rowRange row]
  | .yRange y => [.yRange y]
  | .txFailure => []
  | .illegal op => [.illegalCommand op]
  | .pixelRange x y => [.pixelRange x y]

/-- The status of a cause (R208). -/
def ErrorCause.status : ErrorCause → Status
  | .rowRange _ => .errRange
  | .yRange _ => .errRange
  | .txFailure => .errTx
  | .illegal _ => .errIllegal
  | .pixelRange _ _ => .errRange

/-- `raise E(info)`, this block's taking of an exception (R13, R209): the event of the category, if it has one, then the
response with its status and value 0; nothing is saved, nothing else changes, and there is nothing to return to (R210). -/
def State.raise (s : State) (e : ErrorCause) : Result := .next ((s.report e.events).respond e.status 0)

/-- `return OK` (R13). -/
def State.done (s : State) : Result := .next (s.respond .ok 0)

/-- `Dirty <- 1; return OK`, the end of every command that draws (R24, R33). -/
def State.drawn (s : State) : Result := s.markDirty.done

/-! ## The command port -/

/-- The host's command at the index, none when the list is used up (R32, R244). -/
def State.fetch (s : State) : Option HostCommand := s.program[s.pc]?

/-- The payload presented with the command at the index (R86). -/
def State.payload (s : State) : Payload :=
  match s.fetch with
  | some c => c.payload
  | none => .absent

/-- A command that takes no payload: the host may present none with it (R87). -/
def State.expectNone (s : State) (o : Result) : Result :=
  match s.payload with
  | .absent => o
  | _ => .refused .strayPayload

/-- LOAD_IMAGE takes a blob of exactly 1056 bytes, read through `BlobRead` (R86, U1). -/
def State.expectBlob (s : State) (k : List Byte → Result) : Result :=
  match s.payload with
  | .blob bytes => if blobWf bytes then k bytes else .refused .blobLength
  | _ => .refused .payloadKind

/-- DRAW_TEXT takes a message of exactly `len` characters, read through `MsgRead` (R86, U1). -/
def State.expectMessage (s : State) (len : Len) (k : List Byte → Result) : Result :=
  match s.payload with
  | .message chars => if messageWf len chars then k chars else .refused .messageLength
  | _ => .refused .payloadKind

/-- ATTACH_FONT takes a table, well-formed for the range (R90, R151, R153, U2). -/
def State.expectTable (s : State) (first last : Byte) (k : GlyphTable → Result) : Result :=
  match s.payload with
  | .table g => if tableWf first last g then k g else .refused .malformedTable
  | _ => .refused .payloadKind

/-- A text command reads the attached table: its well-formedness for the range is a premise (R151, U2). -/
def State.withTable (s : State) (o : Result) : Result :=
  if tableWf s.startChar s.endChar s.glyphs then o else .refused .malformedTable

/-! ## The data channel -/

/-- The channel's answer to the next transaction: the next one the environment lists, and when none is listed the free
value of Config at the number of transactions so far (R181, U5, U6; log 6). -/
def State.nextAnswer (s : State) : ChanAnswer :=
  match s.answers with
  | a :: _ => a
  | [] => Config.channelAnswer s.chan.length

/-- `ChanSend(mode, bytes)`: the log gets one entry, and the answer is used up (R181, R189). -/
def State.chanSend (s : State) (mode : ChanMode) (bytes : List Byte) : State :=
  { s with chan := s.chan ++ [⟨mode, bytes, s.nextAnswer⟩], answers := s.answers.tail }

/-- The bytes of a transaction the channel took: all of them on `ok`, a prefix on a failure (R181, R183). -/
def Transaction.taken (t : Transaction) : List Byte :=
  match t.answer with
  | .ok => t.bytes
  | .fail n => t.bytes.take n.val

/-- The framing of a transaction, in order: the mode signal, chip-select asserted, the bytes the channel took, chip-select
deasserted. R180 and R181 (4) say so of each transaction, a failed one included (log 17). DESIGN CHOICE: no event restores the
mode signal after a failure, which the spec leaves open (N11; log 18). -/
def Transaction.frame (t : Transaction) : List BusEvent :=
  [.driveMode t.mode, .assertSelect] ++ t.taken.map .byte ++ [.deassertSelect]

/-- What the display was last sent: the bytes of the last `ok` entry of the log, all zero if there is none (R189). -/
def State.lastSent (s : State) : List Byte :=
  match (s.chan.filter fun t => t.answer = .ok).getLast? with
  | some t => t.bytes
  | none => List.replicate Config.bufferCount 0#8

/-! ## Around a command -/

/-- The index advances by exactly 1 after every command, whatever its status (R32). -/
def State.advance (s : State) : State := { s with pc := s.pc + 1 }

/-- After the command has produced its response (R32). -/
def finish (o : Result) : Result := andThen o fun s => .next s.advance

/-- With no command presented the block waits, nothing changes (R232, R244; log 1). -/
def State.wait (s : State) : Result := .next s

/-- The illegal command (R85, R206): a reserved opcode raises category (e). It takes no payload (R87). -/
def State.illegal (s : State) (op : Byte) : Result := s.expectNone (s.raise (.illegal op))

/-- A payload of zeros (zero bytes, zero characters, entries of width 0) that the host may present with the word
(log 1). -/
def zeroPayload : Decoded → Payload
  | .command .loadImage => .blob (List.replicate Config.bufferCount 0#8)
  | .command (.drawText _ len) => .message (List.replicate len.toNat 0#8)
  | .command (.attachFont first last) =>
    .table (if last.toNat < first.toNat then [] else List.replicate (last.toNat - first.toNat + 1) [0#8])
  | _ => .absent

/-- The host's list with `c` as the command at the index, the commands before and after it as they were. -/
def State.present (s : State) (c : HostCommand) : State :=
  { s with program :=
      s.program.take s.pc ++ List.replicate (s.pc - s.program.length) ⟨0, .absent⟩ ++ c :: s.program.drop (s.pc + 1) }

end Sys2Proof.Machine
end

