-- ==== Sys2Proof/Machine/BufferOps.lean ====
section
/-!
DEFINITION. Sys2Proof/Machine/BufferOps.lean: CLEAR, CLEAR_ROW, LOAD_IMAGE (40_buffer_ops.md).
-/

namespace Sys2Proof.Machine

/-- CLEAR (R110). -/
def execClear (s : State) : Result :=
  s.expectNone <| andThen (s.store 0 (List.replicate Config.bufferCount 0#8)) State.drawn

/-- CLEAR_ROW row (R111, R112). -/
def execClearRow (row : Byte) (s : State) : Result :=
  s.expectNone <|
    if Config.pageCount ≤ row.toNat then s.raise (.rowRange row)
    else andThen (s.store (cellAt row.toNat 0) (List.replicate spanWidth 0#8)) State.drawn

/-- LOAD_IMAGE blob (R113). -/
def execLoadImage (s : State) : Result :=
  s.expectBlob fun blob => andThen (s.store 0 blob) State.drawn

end Sys2Proof.Machine
end

