-- ==== Sys2Proof/Machine/GlyphText.lean ====
section
/-!
DEFINITION. Sys2Proof/Machine/GlyphText.lean: ATTACH_FONT, DETACH_FONT, DRAW_TEXT, DRAW_CHAR (42_glyph_text.md).
-/

namespace Sys2Proof.Machine

/-- ATTACH_FONT table, first, last (R153). -/
def execAttachFont (first last : Byte) (s : State) : Result :=
  s.expectTable first last fun g => (s.attach first last g).done

/-- DETACH_FONT (R154). -/
def execDetachFont (s : State) : Result := s.expectNone s.detach.done

/-- DRAW_TEXT message, row (R155): without a font a no-op (R203); else the message's columns, cut where the cursor reaches
the row end (R157), and the events of all its characters (R161); Dirty is set whatever was written (R160). -/
def execDrawText (row : Byte) (len : Len) (s : State) : Result :=
  s.expectMessage len fun chars =>
    if s.fontAttached then
      s.withTable <|
        andThen (s.store (rowBase row) ((textColumns s chars).take (rowEnd row - rowBase row)))
          fun t => (t.report (textEvents s chars)).drawn
    else s.done

/-- DRAW_CHAR code, x, row (R163): without a font or with an unmapped code a silent no-op (R203, R164); else the glyph's
columns from column `x` on, cut at the row end (R166), with no spacer (R167). -/
def execDrawChar (code x row : Byte) (s : State) : Result :=
  s.expectNone <|
    if s.fontAttached && mapped s code then
      let pos := rowBase row + x.toNat
      s.withTable <|
        andThen (s.store pos ((glyphColumns s code).take (rowEnd row - pos))) State.drawn
    else s.done

end Sys2Proof.Machine
end

