-- ==== Sys2Proof/Machine/PixelLine.lean ====
section
/-!
DEFINITION. Sys2Proof/Machine/PixelLine.lean: DRAW_HLINE and READ_PIXEL (41_pixel_line.md).
-/

namespace Sys2Proof.Machine

/-- DRAW_HLINE y (R133): the bit is ORed into each of the 129 cells, never clearing another (R135). -/
def execDrawHline (y : Byte) (s : State) : Result :=
  s.expectNone <|
    if Config.pixelHeight ≤ y.toNat then s.raise (.yRange y)
    else
      let first := cellAt (linePage y.toNat) 0
      s.load first spanWidth fun cells =>
        andThen (s.store first (cells.map (· ||| bitMask y.toNat))) State.drawn

/-- READ_PIXEL x, y (R130, R132). -/
def execReadPixel (x y : Byte) (s : State) : Result :=
  s.expectNone <|
    if Config.pixelWidth ≤ x.toNat ∨ Config.pixelHeight ≤ y.toNat then s.raise (.pixelRange x y)
    else
      s.load (cellIndex x.toNat y.toNat) 1 fun cells =>
        .next (s.respond .ok (((cells.headD 0#8).toNat >>> bitIndex y.toNat) % 2))

end Sys2Proof.Machine
end

