-- ==== Sys2Proof/Machine/Transmit.lean ====
section
/-!
DEFINITION. Sys2Proof/Machine/Transmit.lean: FLUSH (43_flush.md).
-/

namespace Sys2Proof.Machine

/-- FLUSH (R182): nothing when Dirty is 0; else the whole Buffer as one DATA transaction (R185), then Dirty is cleared on
`ok` only, and a failure is answered with nothing else changed (R183, R205). -/
def execFlush (s : State) : Result :=
  s.expectNone <|
    if s.dirty then
      s.load 0 Config.bufferCount fun bytes =>
        match s.nextAnswer with
        | .ok => (s.chanSend .data bytes).clearDirty.done
        | .fail _ => (s.chanSend .data bytes).raise .txFailure
    else s.done

end Sys2Proof.Machine
end

