-- ==== Sys2Proof/Machine/Dispatch.lean ====
section
/-!
DEFINITION. Sys2Proof/Machine/Dispatch.lean: one arm per command of R82, each one call of its meaning.
-/

namespace Sys2Proof.Machine

/-- The meaning of each command (R82). -/
def exec (i : Instr) (s : State) : Host.Outcome State Fault Refusal :=
  match i with
  | .clear => Sys2Proof.Machine.execClear s
  | .clearRow row => Sys2Proof.Machine.execClearRow row s
  | .loadImage => Sys2Proof.Machine.execLoadImage s
  | .drawHline y => Sys2Proof.Machine.execDrawHline y s
  | .drawText row len => Sys2Proof.Machine.execDrawText row len s
  | .drawChar code x row => Sys2Proof.Machine.execDrawChar code x row s
  | .flush => Sys2Proof.Machine.execFlush s
  | .attachFont first last => Sys2Proof.Machine.execAttachFont first last s
  | .detachFont => Sys2Proof.Machine.execDetachFont s
  | .readPixel x y => Sys2Proof.Machine.execReadPixel x y s

end Sys2Proof.Machine
end

