-- ==== Sys2Proof/Machine/Step.lean ====
section
/-!
DEFINITION. Sys2Proof/Machine/Step.lean: one step is one whole command of the host (R32), and where the next command is
placed.
-/

namespace Sys2Proof.Machine

/-- One step (R32): take the host's command at the index, decode its word, perform it to completion, and advance the index
by 1. With no command presented the block waits (R232). -/
def step (s : State) : Host.Outcome State Fault Refusal :=
  match s.fetch with
  | none => s.wait
  | some c =>
    match decode c.word with
    | .command i => finish (exec i s)
    | .illegal op => finish (s.illegal op)

/-- `s` with the opcode-table word `w`, and a payload of zeros that the host may present with it, as the host's command at
the index, so that the next step runs exactly it (log 1). -/
def State.withFetchWord (s : State) (nbits w : Nat) : State :=
  s.present ⟨tableWord nbits w, zeroPayload (decode (tableWord nbits w))⟩

end Sys2Proof.Machine
end

