-- ==== Sys2Proof/Safety.lean ====
section
/-!
DEFINITION. Sys2Proof/Safety.lean: the terms the claims use: the invariants of the state, what the host may present, the
spec's tables of statuses and flags written out as functions of the state before the command, and R155's pseudocode
transcribed as the loop the spec prints.
-/

namespace Sys2Proof

open Machine

/-! ## What the host may present -/

/-- The command is one the host may present: its payload fits the word (R86, R87, U1, U2). -/
def HostCommand.wf (c : HostCommand) : Bool :=
  match decode c.word with
  | .command i => i.payloadWf c.payload
  | .illegal _ => c.payload == .absent

namespace Machine

/-! ## Invariants -/

/-- The Buffer is in its canonical form. -/
def State.canonical (s : State) : Prop := s.buffer.wf

/-- While a font is attached its table is well-formed for the range (R151, U2). -/
def State.fontReady (s : State) : Prop :=
  s.fontAttached = true → tableWf s.startChar s.endChar s.glyphs = true

/-- Every transaction of the channel log is one whole Buffer in data mode (R184, R185). -/
def State.chanShaped (s : State) : Prop := ∀ t ∈ s.chan, t.mode = .data ∧ t.bytes.length = 1056

/-- While Dirty is 0 the Buffer is what the display was last sent (R189, R242). -/
def State.cleanIsSent (s : State) : Prop := s.dirty = false → s.serialize = s.lastSent

/-- Every command the host has issued has produced one response (R32, R88). -/
def State.counted (s : State) : Prop := s.responses.length = s.pc

/-- The payload an event may carry (R89). -/
def DiagEvent.legal : DiagEvent → Prop
  | .rowRange row => 8 ≤ row.toNat
  | .yRange y => 64 ≤ y.toNat
  | .unmappedGlyph code => code ≠ 0x20#8
  | .illegalCommand op => op.toNat = 0 ∨ 0x0B ≤ op.toNat
  | .pixelRange x y => 128 ≤ x.toNat ∨ 64 ≤ y.toNat

/-- The value a response may carry: a pixel, 0 or 1, and 0 with every status but OK (R88). -/
def Response.legal (r : Response) : Prop := r.value ≤ 1 ∧ (r.status ≠ .ok → r.value = 0)

/-- Every event and every response of the logs is a legal one. -/
def State.logsLegal (s : State) : Prop := (∀ e ∈ s.diagLog, e.legal) ∧ ∀ r ∈ s.responses, r.legal

/-! ## The spec's tables -/

/-- The code is inside the attached table's range (R152). -/
abbrev inRange (s : State) (code : Byte) : Prop :=
  s.startChar.toNat ≤ code.toNat ∧ code.toNat ≤ s.endChar.toNat

/-- The pixel bit of (x, y) (R130): `(Buffer[132·(y/8) + x] >> (y mod 8)) & 1`. -/
def pixelAt (s : State) (x y : Nat) : Nat :=
  ((s.buffer.read (132 * (y / 8) + x)).toNat >>> (y % 8)) % 2

/-- R88: the status of each command's response, from the state before it and the channel's answer. -/
def statusTable (i : Instr) (s : State) : Status :=
  match i with
  | .clearRow row => if 8 ≤ row.toNat then .errRange else .ok
  | .drawHline y => if 64 ≤ y.toNat then .errRange else .ok
  | .readPixel x y => if 128 ≤ x.toNat ∨ 64 ≤ y.toNat then .errRange else .ok
  | .flush => if s.dirty = true ∧ s.nextAnswer ≠ .ok then .errTx else .ok
  | .clear | .loadImage | .drawText _ _ | .drawChar _ _ _ | .attachFont _ _ | .detachFont => .ok

/-- R88: the value of each command's response, 0 but for a READ_PIXEL that is answered OK. -/
def valueTable (i : Instr) (s : State) : Nat :=
  match i with
  | .readPixel x y => if 128 ≤ x.toNat ∨ 64 ≤ y.toNat then 0 else pixelAt s x.toNat y.toNat
  | .clear | .clearRow _ | .loadImage | .drawHline _ | .drawText _ _ | .drawChar _ _ _ | .flush
  | .attachFont _ _ | .detachFont => 0

/-- R33, column Dirty: the flag after each command, from the state before it and the channel's answer. -/
def dirtyTable (i : Instr) (s : State) : Bool :=
  match i with
  | .clear | .loadImage => true
  | .clearRow row => if row.toNat < 8 then true else s.dirty
  | .drawHline y => if y.toNat < 64 then true else s.dirty
  | .drawText _ _ => if s.fontAttached = true then true else s.dirty
  | .drawChar code _ _ => if s.fontAttached = true ∧ inRange s code then true else s.dirty
  | .flush => if s.dirty = true ∧ s.nextAnswer = .ok then false else s.dirty
  | .attachFont _ _ | .detachFont | .readPixel _ _ => s.dirty

/-- R33, column FontAttached: the flag after each command. -/
def fontTable (i : Instr) (s : State) : Bool :=
  match i with
  | .attachFont _ _ => true
  | .detachFont => false
  | .clear | .clearRow _ | .loadImage | .drawHline _ | .drawText _ _ | .drawChar _ _ _ | .flush | .readPixel _ _ =>
    s.fontAttached

/-! ## R155's pseudocode -/

/-- What the loop of R155 carries: the Buffer, `pos`, and the diagnostic log. -/
structure Cursor where
  buffer : Memory
  pos : Nat
  log : List DiagEvent
  deriving DecidableEq, Repr

/-- `if pos < rowEnd: Buffer[pos] <- b; pos <- pos + 1`. -/
def Cursor.put (rowEnd : Nat) (c : Cursor) (b : Byte) : Cursor :=
  if c.pos < rowEnd then { c with buffer := c.buffer.writeRun c.pos [b], pos := c.pos + 1 } else c

/-- `GlyphRead(g, k)` of the table `G` (R151). -/
def tableByte (g : GlyphTable) (i k : Nat) : Byte := (g.getD i []).getD k 0#8

/-- The body of R155's loop over the characters: five blanks and a report, or the glyph and its spacer. -/
def Cursor.char (s : State) (rowEnd : Nat) (c : Cursor) (ch : Byte) : Cursor :=
  if ch.toNat < s.startChar.toNat ∨ s.endChar.toNat < ch.toNat then
    let c := (List.range 5).foldl (fun c _ => c.put rowEnd 0#8) c
    if ch ≠ 0x20#8 then { c with log := c.log ++ [.unmappedGlyph ch] } else c
  else
    let g := ch.toNat - s.startChar.toNat
    let w := (tableByte s.glyphs g 0).toNat
    let c := (List.range w).foldl (fun c k => c.put rowEnd (tableByte s.glyphs g (1 + k))) c
    c.put rowEnd 0#8

/-- R155 from `r = …` to the end of its loop, for the message `chars`. -/
def textLoop (s : State) (row : Byte) (chars : List Byte) : Cursor :=
  let r := if 8 ≤ row.toNat then 7 else row.toNat
  let rowBase := 132 * r
  chars.foldl (Cursor.char s (rowBase + 128)) ⟨s.buffer, rowBase, s.diagLog⟩

/-- How far one character moves the cursor before the row end cuts it: 5, or the glyph's width and one more (R158, R159). -/
def advanceOf (s : State) (ch : Byte) : Nat :=
  if inRange s ch then (tableByte s.glyphs (ch.toNat - s.startChar.toNat) 0).toNat + 1 else 5

end Machine

end Sys2Proof
end

