-- ==== Sys2Proof/Certificates/Slice0/Obligations.lean ====
section
/-!
DEFINITION. Sys2Proof/Certificates/Slice0/Obligations.lean: the statements for the provers. Numbers and formulas are the
spec's own (132, 128, 1056, 0x20, …), not the model's names for them, so that a statement can be held beside its rule.
`t = { s with … }` in a conclusion is the frame: every part of the state not named there is as it was.
-/

open Sys2Proof Sys2Proof.Machine

/-! ## The command word (30_encoding.md) -/

/-- R81: a word is `op·2^24 + a·2^16 + b·2^8 + c`, its fields are those bytes, and `len` is `{b, c}`. -/
def Obligations.WordIsItsFields : Prop :=
  ∀ op a b c : Byte,
    (pack op a b c).toNat = op.toNat * 2 ^ 24 + a.toNat * 2 ^ 16 + b.toNat * 2 ^ 8 + c.toNat ∧
    opField (pack op a b c) = op ∧ aField (pack op a b c) = a ∧ bField (pack op a b c) = b ∧
    cField (pack op a b c) = c ∧ (lenField (pack op a b c)).toNat = b.toNat * 256 + c.toNat

/-- R82, R83 (and R84): the ten rows of the opcode map, each operand the field R83 names, each ignored field any value. The
numbers and fields are the spec's decisions D3, D4, D5. -/
def Obligations.OpcodeMapDecodes : Prop :=
  ∀ a b c : Byte,
    decode (pack 0x01 a b c) = .command .clear ∧
    decode (pack 0x02 a b c) = .command (.clearRow a) ∧
    decode (pack 0x03 a b c) = .command .loadImage ∧
    decode (pack 0x04 a b c) = .command (.drawHline a) ∧
    (∃ len : Len, len.toNat = b.toNat * 256 + c.toNat ∧ decode (pack 0x05 a b c) = .command (.drawText a len)) ∧
    decode (pack 0x06 a b c) = .command (.drawChar a b c) ∧
    decode (pack 0x07 a b c) = .command .flush ∧
    decode (pack 0x08 a b c) = .command (.attachFont a b) ∧
    decode (pack 0x09 a b c) = .command .detachFont ∧
    decode (pack 0x0A a b c) = .command (.readPixel a b)

/-- R87 with R82's table: a word decodes to the one command whose row it matches, or to the illegal command with its opcode
when it matches no row, and then the opcode is 0x00 or one of 0x0B..0xFF (R85). -/
def Obligations.DecodingFollowsTheTable : Prop :=
  ∀ w : CommandWord,
    (∃ i, decode w = .command i ∧
      ∀ row ∈ opcodeTable, (w &&& row.mask = row.pattern ↔ row.mnemonic = i.mnemonic)) ∨
    (decode w = .illegal (opField w) ∧ ((opField w).toNat = 0 ∨ 0x0B ≤ (opField w).toNat) ∧
      ∀ row ∈ opcodeTable, w &&& row.mask ≠ row.pattern)

/-- Every command is read back from its own word: no bit of an operand is lost (R82, R83). -/
def Obligations.DecodeEncodeRoundTrip : Prop := ∀ i : Instr, decode (encode i) = .command i

/-- Words of 95_test_vectors.md, one for each command, and two reserved ones. -/
def Obligations.SampleWordsDecode : Prop :=
  decode 0x01000000 = .command .clear ∧
  decode 0x02070000 = .command (.clearRow 7) ∧
  decode 0x03000000 = .command .loadImage ∧
  decode 0x043F0000 = .command (.drawHline 63) ∧
  decode 0x05FF0001 = .command (.drawText 255 1) ∧
  decode 0x06417F07 = .command (.drawChar 0x41 127 7) ∧
  decode 0x07120000 = .command .flush ∧
  decode 0x08414300 = .command (.attachFont 0x41 0x43) ∧
  decode 0x09000000 = .command .detachFont ∧
  decode 0x0A050AFF = .command (.readPixel 5 10) ∧
  decode 0x00000000 = .illegal 0x00 ∧
  decode 0xFF123456 = .illegal 0xFF

/-! ## One step (10_state.md, 60_exceptions.md) -/

/-- A step performs the command the word at the index decodes to, at the same state, and moves the index by one; a stop of
the command is the step's stop. The index is the model's `pc` (log 1). -/
def Obligations.StepRunsDecodedCommand : Prop :=
  ∀ (s : State) (c : HostCommand) (i : Instr), s.fetch = some c → decode c.word = .command i →
    (∀ t, exec i s = .next t → step s = .next { t with pc := t.pc + 1 }) ∧
    (∀ r, exec i s = .fault r → step s = .fault r) ∧
    (∀ r, exec i s = .refused r → step s = .refused r)

/-- R232: "after reset the block waits for the host's first command". That the model's step then leaves the state as it is
is the model's choice (log 1). -/
def Obligations.WaitsWhenNothingIsPresented : Prop :=
  ∀ s : State, s.program.length ≤ s.pc → step s = .next s

/-- R206 (R85), the spec's decision D6: a reserved opcode changes no cell and no register, issues no transaction, emits
`ILLEGAL_COMMAND(op)` and answers ERR_ILLEGAL; the next command is accepted normally. -/
def Obligations.IllegalCommandIsReported : Prop :=
  ∀ (s : State) (w : CommandWord), s.fetch = some ⟨w, .absent⟩ →
    (opField w).toNat = 0 ∨ 0x0B ≤ (opField w).toNat →
    step s = .next { s with
      diagLog := s.diagLog ++ [.illegalCommand (opField w)]
      responses := s.responses ++ [⟨.errIllegal, 0⟩]
      pc := s.pc + 1 }

/-- R32: the index into the host's command list is advanced by exactly 1 after every command whatever its status: no branch,
no skip, no repeat, and the list itself is not changed. That the list and the index stand in State is the model's choice
(log 1). The log of responses is log 10. -/
def Obligations.IndexAdvancesByOne : Prop :=
  ∀ s t : State, s.pc < s.program.length → step s = .next t →
    t.pc = s.pc + 1 ∧ t.program = s.program ∧ ∃ r, t.responses = s.responses ++ [r]

/-- R88: every command produces one response, with the status of R88's table and its code; the value is 0 for every command
except READ_PIXEL, for which it is the pixel when the status is OK. The illegal command answers ERR_ILLEGAL. The response
port is the spec's decision (D7, D9); that the model logs the responses is log 10. -/
def Obligations.ResponsesFollowTheTable : Prop :=
  (∀ (i : Instr) (s t : State), exec i s = .next t →
    t.responses = s.responses ++ [⟨statusTable i s, valueTable i s⟩]) ∧
  (∀ (op : Byte) (s t : State), s.illegal op = .next t → t.responses = s.responses ++ [⟨.errIllegal, 0⟩]) ∧
  Status.code .ok = 0 ∧ Status.code .errRange = 1 ∧ Status.code .errTx = 2 ∧ Status.code .errIllegal = 3

/-! ## Buffer lifecycle (40_buffer_ops.md) -/

/-- R110: CLEAR sets every cell to 0, padding included, marks dirty always, and cannot fail. -/
def Obligations.ClearResult : Prop :=
  (∀ a b c : Byte, decode (pack 0x01 a b c) = .command .clear) ∧
  ∀ s : State, s.payload = .absent →
    ∃ t, exec .clear s = .next t ∧
      (∀ i, t.buffer.read i = if i < 1056 then 0#8 else s.buffer.read i) ∧
      t = { s with buffer := t.buffer, dirty := true, responses := s.responses ++ [⟨.ok, 0⟩] }

/-- R111: CLEAR_ROW clears the 129 cells `132·row .. 132·row + 128` and no other, and marks dirty; a row of 8 or more is
reported and changes nothing. -/
def Obligations.ClearRowResult : Prop :=
  (∀ a b c : Byte, decode (pack 0x02 a b c) = .command (.clearRow a)) ∧
  ∀ (s : State) (row : Byte), s.payload = .absent →
    (row.toNat < 8 →
      ∃ t, exec (.clearRow row) s = .next t ∧
        (∀ i, t.buffer.read i =
          if 132 * row.toNat ≤ i ∧ i ≤ 132 * row.toNat + 128 then 0#8 else s.buffer.read i) ∧
        t = { s with buffer := t.buffer, dirty := true, responses := s.responses ++ [⟨.ok, 0⟩] }) ∧
    (8 ≤ row.toNat →
      exec (.clearRow row) s = .next { s with
        diagLog := s.diagLog ++ [.rowRange row]
        responses := s.responses ++ [⟨.errRange, 0⟩] })

/-- R113: LOAD_IMAGE overwrites the whole Buffer with the blob byte for byte, padding included, and marks dirty always; a
blob that is not of 1056 bytes is refused, as R113 says the model does (U1; log 8). -/
def Obligations.LoadImageResult : Prop :=
  (∀ a b c : Byte, decode (pack 0x03 a b c) = .command .loadImage) ∧
  ∀ (s : State) (blob : List Byte), s.payload = .blob blob →
    (blob.length = 1056 →
      ∃ t, exec .loadImage s = .next t ∧
        (∀ i, t.buffer.read i = if i < 1056 then blob.getD i 0#8 else s.buffer.read i) ∧
        t = { s with buffer := t.buffer, dirty := true, responses := s.responses ++ [⟨.ok, 0⟩] }) ∧
    (blob.length ≠ 1056 → exec .loadImage s = .refused .blobLength)

/-- R115: LOAD_IMAGE followed by serialization yields exactly the blob, and `LOAD_IMAGE blob; FLUSH` with a channel that
answers `ok` records one data transaction with those bytes. The two commands stand in the host's list, the answer in
`answers` (logs 1, 6). -/
def Obligations.LoadImageRoundTrip : Prop :=
  ∀ (s : State) (w w' : CommandWord) (blob : List Byte) (later : List ChanAnswer),
    s.fetch = some ⟨w, .blob blob⟩ → opField w = 0x03 → blob.length = 1056 →
    s.program[s.pc + 1]? = some ⟨w', .absent⟩ → opField w' = 0x07 → s.answers = .ok :: later →
    ∃ t u, step s = .next t ∧ t.serialize = blob ∧ step t = .next u ∧
      u.chan = s.chan ++ [⟨.data, blob, .ok⟩] ∧ u.dirty = false ∧ u.serialize = blob ∧
      u.responses = s.responses ++ [⟨.ok, 0⟩, ⟨.ok, 0⟩]

/-! ## Pixels and lines (41_pixel_line.md) -/

/-- R130: the composer's functions on the visible coordinates; the pixel is 1 iff bit `bitIndex` of its cell is 1, and no
visible pixel maps to a padding cell. -/
def Obligations.ComposerMapping : Prop :=
  ∀ x y : Nat, x < 128 → y < 64 →
    pageOf y = y / 8 ∧ bitIndex y = y % 8 ∧ cellIndex x y = 132 * (y / 8) + x ∧ cellIndex x y ≤ 1051 ∧
    (bitMask y).toNat = 2 ^ (y % 8) ∧ cellIndex x y % 132 < 128 ∧
    ∀ s : State, pixelAt s x y = ((s.buffer.read (cellIndex x y)).toNat >>> bitIndex y) % 2 ∧
      (pixelAt s x y = 1 ↔ (s.buffer.read (cellIndex x y)).getLsbD (bitIndex y) = true)

/-- R131: the mapping of visible pixels to (cell, bit) pairs is a bijection onto the pairs in columns 0..127, with the
inverse R131 gives. -/
def Obligations.ComposerBijection : Prop :=
  (∀ x y : Nat, x < 128 → y < 64 →
    cellIndex x y < 1056 ∧ cellIndex x y % 132 < 128 ∧ bitIndex y < 8 ∧
    cellIndex x y % 132 = x ∧ 8 * (cellIndex x y / 132) + bitIndex y = y) ∧
  (∀ i b : Nat, i < 1056 → i % 132 < 128 → b < 8 →
    8 * (i / 132) + b < 64 ∧ cellIndex (i % 132) (8 * (i / 132) + b) = i ∧ bitIndex (8 * (i / 132) + b) = b)

/-- R134: the generic page formula and the simple one agree for the fixed constants. -/
def Obligations.PageFormulasAgree : Prop :=
  ∀ y : Nat, y < 64 → linePage y = y / 8 ∧ linePage y = pageOf y ∧ linePage y < 8

/-- R132: READ_PIXEL answers the pixel bit and changes nothing; out of range it is reported and changes nothing (that it is
a command and what it does out of range are the spec's choices). -/
def Obligations.ReadPixelResult : Prop :=
  (∀ a b c : Byte, decode (pack 0x0A a b c) = .command (.readPixel a b)) ∧
  ∀ (s : State) (x y : Byte), s.payload = .absent →
    (x.toNat < 128 ∧ y.toNat < 64 →
      exec (.readPixel x y) s = .next { s with
        responses := s.responses ++
          [⟨.ok, ((s.buffer.read (132 * (y.toNat / 8) + x.toNat)).toNat >>> (y.toNat % 8)) % 2⟩] }) ∧
    (128 ≤ x.toNat ∨ 64 ≤ y.toNat →
      exec (.readPixel x y) s = .next { s with
        diagLog := s.diagLog ++ [.pixelRange x y]
        responses := s.responses ++ [⟨.errRange, 0⟩] })

/-- R133: DRAW_HLINE ORs the bit into the 129 cells of its page and changes no other, and marks dirty; y of 64 or more is
reported and changes nothing. -/
def Obligations.DrawHlineResult : Prop :=
  (∀ a b c : Byte, decode (pack 0x04 a b c) = .command (.drawHline a)) ∧
  ∀ (s : State) (y : Byte), s.payload = .absent →
    (y.toNat < 64 →
      ∃ t, exec (.drawHline y) s = .next t ∧
        (∀ i, t.buffer.read i =
          if 132 * (y.toNat * 8 / 64) ≤ i ∧ i ≤ 132 * (y.toNat * 8 / 64) + 128
          then s.buffer.read i ||| (1#8 <<< (y.toNat % 8)) else s.buffer.read i) ∧
        t = { s with buffer := t.buffer, dirty := true, responses := s.responses ++ [⟨.ok, 0⟩] }) ∧
    (64 ≤ y.toNat →
      exec (.drawHline y) s = .next { s with
        diagLog := s.diagLog ++ [.yRange y]
        responses := s.responses ++ [⟨.errRange, 0⟩] })

/-- R135, bit by bit: after DRAW_HLINE a bit of a cell is what it was, or is set because the cell is in the span and the bit
is the line's; and drawing the same line again leaves every cell as it is. -/
def Obligations.LinesOnlySetBits : Prop :=
  ∀ (s t : State) (y : Byte), y.toNat < 64 → exec (.drawHline y) s = .next t →
    (∀ i b : Nat, b < 8 →
      (t.buffer.read i).getLsbD b =
        ((s.buffer.read i).getLsbD b ||
          (decide (132 * (y.toNat / 8) ≤ i ∧ i ≤ 132 * (y.toNat / 8) + 128) && decide (b = y.toNat % 8)))) ∧
    ∃ u, exec (.drawHline y) t = .next u ∧ ∀ i, u.buffer.read i = t.buffer.read i

/-- R138: after CLEAR and then DRAW_HLINE y, READ_PIXEL reads 1 at (x', y') iff y' = y, for all visible (x', y'). -/
def Obligations.LineAfterClear : Prop :=
  ∀ (s : State) (y : Byte), s.payload = .absent → y.toNat < 64 →
    ∃ t u, exec .clear s = .next t ∧ exec (.drawHline y) t = .next u ∧
      ∀ x' y' : Byte, x'.toNat < 128 → y'.toNat < 64 →
        exec (.readPixel x' y') u = .next { u with
          responses := u.responses ++ [⟨.ok, if y' = y then 1 else 0⟩] }

/-! ## Fonts and text (42_glyph_text.md) -/

/-- R153: ATTACH_FONT writes StartChar, EndChar and FontAttached, and the table becomes `G`; nothing else changes, and start
> end is accepted (D11, D12). A table that is ill-formed for its range is refused (U2, D29; log 9). -/
def Obligations.AttachFontResult : Prop :=
  (∀ a b c : Byte, decode (pack 0x08 a b c) = .command (.attachFont a b)) ∧
  ∀ (s : State) (first last : Byte) (g : GlyphTable), s.payload = .table g →
    ((∀ e ∈ g, e.length = 1 + (e.getD 0 0#8).toNat) →
      (first.toNat ≤ last.toNat → g.length = last.toNat - first.toNat + 1) →
      exec (.attachFont first last) s = .next { s with
        startChar := first, endChar := last, fontAttached := true, glyphs := g
        responses := s.responses ++ [⟨.ok, 0⟩] }) ∧
    (¬ ((∀ e ∈ g, e.length = 1 + (e.getD 0 0#8).toNat) ∧
        (first.toNat ≤ last.toNat → g.length = last.toNat - first.toNat + 1)) →
      exec (.attachFont first last) s = .refused .malformedTable)

/-- R154 (D11): DETACH_FONT clears FontAttached and changes nothing else. -/
def Obligations.DetachFontResult : Prop :=
  (∀ a b c : Byte, decode (pack 0x09 a b c) = .command .detachFont) ∧
  ∀ s : State, s.payload = .absent →
    exec .detachFont s = .next { s with
      fontAttached := false, responses := s.responses ++ [⟨.ok, 0⟩] }

/-- R155: DRAW_TEXT does what the pseudocode does: with no font nothing; else the Buffer and the log are those of the loop
(`textLoop` is the pseudocode transcribed), Dirty is set, and the status is OK. It depends on the spec's decisions D13 (the
row end is exclusive; TEXT_BOUND_INCLUSIVE at its default, log 5) and D15 (characters past a full row are still reported).
-/
def Obligations.DrawTextIsThePseudocode : Prop :=
  (∀ a b c : Byte, ∃ len : Len, len.toNat = b.toNat * 256 + c.toNat ∧
    decode (pack 0x05 a b c) = .command (.drawText a len)) ∧
  ∀ (s : State) (row : Byte) (len : Len) (chars : List Byte),
    s.payload = .message chars → chars.length = len.toNat →
    (s.fontAttached = false →
      exec (.drawText row len) s = .next { s with responses := s.responses ++ [⟨.ok, 0⟩] }) ∧
    (s.fontAttached = true → tableWf s.startChar s.endChar s.glyphs = true →
      exec (.drawText row len) s = .next { s with
        buffer := (textLoop s row chars).buffer
        diagLog := (textLoop s row chars).log
        dirty := true
        responses := s.responses ++ [⟨.ok, 0⟩] })

/-- R157, R162, R166: the two text commands write cells of columns 0..127 of the clamped row only (never column 128, never
another page): DRAW_TEXT the prefix of the row whose length is the sum of the characters' advances cut at 128 (R158, R159),
DRAW_CHAR the glyph's width from column x on, cut at column 128. Every other cell keeps its value. It depends on D13 and D18
(TEXT_BOUND_INCLUSIVE at its default, log 5). -/
def Obligations.TextWritesItsRowOnly : Prop :=
  (∀ (s t : State) (row : Byte) (len : Len) (chars : List Byte),
    s.payload = .message chars → s.fontAttached = true → exec (.drawText row len) s = .next t →
    ∀ i, ¬ (132 * min row.toNat 7 ≤ i ∧
        i < 132 * min row.toNat 7 + min 128 (chars.map (advanceOf s)).sum) →
      t.buffer.read i = s.buffer.read i) ∧
  (∀ (s t : State) (code x row : Byte), exec (.drawChar code x row) s = .next t →
    ∀ i, ¬ (132 * min row.toNat 7 + x.toNat ≤ i ∧ i < 132 * min row.toNat 7 + 128 ∧
        i < 132 * min row.toNat 7 + x.toNat + (tableByte s.glyphs (code.toNat - s.startChar.toNat) 0).toNat) →
      t.buffer.read i = s.buffer.read i)

/-- R162: text overwrites. What DRAW_TEXT and DRAW_CHAR leave in a cell they write does not depend on what the Buffer held:
from two states that differ in the Buffer only, a cell reads alike after, or it keeps its own old value in each. -/
def Obligations.TextIgnoresOldCells : Prop :=
  ∀ (i : Instr) (s t : State) (m : Memory),
    (∃ row len, i = .drawText row len) ∨ (∃ code x row, i = .drawChar code x row) →
    exec i s = .next t →
    ∃ t', exec i { s with buffer := m } = .next t' ∧ { t' with buffer := t.buffer } = t ∧
      ∀ k, t'.buffer.read k = t.buffer.read k ∨
        (t'.buffer.read k = m.read k ∧ t.buffer.read k = s.buffer.read k)

/-- R158: an unmapped character alone writes five zero cells from the row's first cell on, the sixth cell keeps its value,
and it is reported unless it is a space. -/
def Obligations.UnmappedCharacterIsFiveBlanks : Prop :=
  ∀ (s : State) (row ch : Byte),
    s.payload = .message [ch] → s.fontAttached = true → tableWf s.startChar s.endChar s.glyphs = true →
    ¬ inRange s ch →
    ∃ t, exec (.drawText row 1) s = .next t ∧
      (∀ k, t.buffer.read (132 * min row.toNat 7 + k) =
        if k < 5 then 0#8 else s.buffer.read (132 * min row.toNat 7 + k)) ∧
      t = { s with
        buffer := t.buffer, dirty := true
        diagLog := s.diagLog ++ (if ch = 0x20#8 then [] else [.unmappedGlyph ch])
        responses := s.responses ++ [⟨.ok, 0⟩] }

/-- R159: a mapped character alone writes its glyph's columns verbatim from the row's first cell on, then one zero cell,
each bounded by the row end; the cells after keep their values, and nothing is reported. The row end is D13's (log 5). -/
def Obligations.MappedCharacterIsItsGlyphAndSpacer : Prop :=
  ∀ (s : State) (row ch : Byte) (width : Byte) (cols : List Byte),
    s.payload = .message [ch] → s.fontAttached = true → tableWf s.startChar s.endChar s.glyphs = true →
    inRange s ch → s.glyphs[ch.toNat - s.startChar.toNat]? = some (width :: cols) →
    ∃ t, exec (.drawText row 1) s = .next t ∧
      (∀ k, k < 128 → t.buffer.read (132 * min row.toNat 7 + k) =
        if k < width.toNat then cols.getD k 0#8
        else if k = width.toNat then 0#8 else s.buffer.read (132 * min row.toNat 7 + k)) ∧
      (∀ k, 128 ≤ k → t.buffer.read (132 * min row.toNat 7 + k) = s.buffer.read (132 * min row.toNat 7 + k)) ∧
      t = { s with buffer := t.buffer, dirty := true, responses := s.responses ++ [⟨.ok, 0⟩] }

/-- R161, R204: DRAW_TEXT reports every unmapped character that is no space, once per occurrence and in message order, also
those past the row end, which is the spec's decision D15. -/
def Obligations.TextReportsEveryUnmappedCharacter : Prop :=
  ∀ (s t : State) (row : Byte) (len : Len) (chars : List Byte),
    s.payload = .message chars → s.fontAttached = true → exec (.drawText row len) s = .next t →
    t.diagLog = s.diagLog ++
      (chars.filter fun ch => decide (¬ inRange s ch ∧ ch ≠ 0x20#8)).map DiagEvent.unmappedGlyph

/-- R156, R165: a row of 8 or more is the same command as row 7, for both text commands: a clamp, no error. -/
def Obligations.TextRowIsClamped : Prop :=
  ∀ (s : State) (row : Byte), 8 ≤ row.toNat →
    (∀ len, exec (.drawText row len) s = exec (.drawText 7 len) s) ∧
    (∀ code x, exec (.drawChar code x row) s = exec (.drawChar code x 7) s)

/-- R163: DRAW_CHAR with no font, or with an unmapped code, is a silent no-op; else it copies the glyph's columns verbatim
from column x of the clamped row on, each bounded by the row end, writes no spacer, marks dirty and reports nothing. It
depends on D13 and D18 (TEXT_BOUND_INCLUSIVE at its default, log 5). -/
def Obligations.DrawCharResult : Prop :=
  (∀ a b c : Byte, decode (pack 0x06 a b c) = .command (.drawChar a b c)) ∧
  ∀ (s : State) (code x row : Byte), s.payload = .absent →
    (s.fontAttached = false ∨ ¬ inRange s code →
      exec (.drawChar code x row) s = .next { s with responses := s.responses ++ [⟨.ok, 0⟩] }) ∧
    (s.fontAttached = true → inRange s code → tableWf s.startChar s.endChar s.glyphs = true →
      ∃ t, exec (.drawChar code x row) s = .next t ∧
        (∀ i, t.buffer.read i =
          if 132 * min row.toNat 7 + x.toNat ≤ i ∧ i < 132 * min row.toNat 7 + 128 ∧
            i < 132 * min row.toNat 7 + x.toNat +
              (tableByte s.glyphs (code.toNat - s.startChar.toNat) 0).toNat
          then tableByte s.glyphs (code.toNat - s.startChar.toNat)
            (1 + (i - (132 * min row.toNat 7 + x.toNat)))
          else s.buffer.read i) ∧
        t = { s with buffer := t.buffer, dirty := true, responses := s.responses ++ [⟨.ok, 0⟩] })

/-! ## Transmission (43_flush.md) -/

/-- R182, R185: FLUSH does nothing when Dirty is 0; else it sends the 1056 cells in index order as one DATA transaction,
clears Dirty on `ok` only, and on a failure answers ERR_TX and leaves Buffer and Dirty. The channel's answer is the
environment's (the model's `nextAnswer`, log 6): when the environment lists one it is that one. The list of answers and its
use are log 6. -/
def Obligations.FlushResult : Prop :=
  (∀ a b c : Byte, decode (pack 0x07 a b c) = .command .flush) ∧
  ∀ s : State, s.payload = .absent →
    (s.dirty = false → exec .flush s = .next { s with responses := s.responses ++ [⟨.ok, 0⟩] }) ∧
    (s.dirty = true → s.nextAnswer = .ok →
      exec .flush s = .next { s with
        dirty := false
        chan := s.chan ++ [⟨.data, (List.range 1056).map s.buffer.read, .ok⟩]
        answers := s.answers.tail
        responses := s.responses ++ [⟨.ok, 0⟩] }) ∧
    (∀ n, s.dirty = true → s.nextAnswer = .fail n →
      exec .flush s = .next { s with
        chan := s.chan ++ [⟨.data, (List.range 1056).map s.buffer.read, .fail n⟩]
        answers := s.answers.tail
        responses := s.responses ++ [⟨.errTx, 0⟩] }) ∧
    (∀ ans later, s.answers = ans :: later → s.nextAnswer = ans)

/-- R181, R188: the transaction a successful FLUSH records is framed as mode signal, chip-select asserted, the 1056 cells in
index order with chip-select held, chip-select deasserted. That the mode signal comes before chip-select is the spec's own
reading (last sentence of R181), and the frame is data the model derives from the log's entry (log 17). -/
def Obligations.FlushIsOneFrame : Prop :=
  ∀ s : State, s.payload = .absent → s.dirty = true → s.nextAnswer = .ok →
    ∃ t tr, exec .flush s = .next t ∧ t.chan = s.chan ++ [tr] ∧
      tr.frame = [.driveMode .data, .assertSelect] ++
        (List.range 1056).map (fun k => .byte (s.buffer.read k)) ++ [.deassertSelect]

/-- R186: flush twice with no mutation between transmits exactly once, provided the first succeeded. -/
def Obligations.FlushTwiceSendsOnce : Prop :=
  ∀ s : State, s.payload = .absent → s.dirty = true → s.nextAnswer = .ok →
    ∃ t u, exec .flush s = .next t ∧ exec .flush t = .next u ∧
      t.chan.length = s.chan.length + 1 ∧ u.chan = t.chan ∧ t.dirty = false ∧ u.dirty = false ∧
      u.buffer = s.buffer ∧ u.responses = s.responses ++ [⟨.ok, 0⟩, ⟨.ok, 0⟩]

/-- R187: after a failed FLUSH Dirty is still 1 and the next FLUSH transmits again, the Buffer as it is then: here with a
line drawn between the failure and the retry. The channel's two answers are listed in `answers` (log 6). -/
def Obligations.RetrySendsTheCurrentBuffer : Prop :=
  ∀ (s : State) (n : Fin 1057) (y : Byte) (later : List ChanAnswer),
    s.payload = .absent → s.dirty = true → s.answers = .fail n :: .ok :: later → y.toNat < 64 →
    ∃ t u v, exec .flush s = .next t ∧ t.dirty = true ∧ t.buffer = s.buffer ∧
      exec (.drawHline y) t = .next u ∧ exec .flush u = .next v ∧ v.dirty = false ∧
      v.chan = s.chan ++ [⟨.data, s.serialize, .fail n⟩, ⟨.data, u.serialize, .ok⟩] ∧
      v.responses = s.responses ++ [⟨.errTx, 0⟩, ⟨.ok, 0⟩, ⟨.ok, 0⟩]

/-! ## Rules about every command -/

/-- R33: the complete table of effects on the two flags, the illegal command's row included; and who reads them: a command
other than FLUSH does the same whatever Dirty is, and a command other than DRAW_TEXT and DRAW_CHAR whatever FontAttached is.
-/
def Obligations.FlagsFollowTheTable : Prop :=
  (∀ (i : Instr) (s t : State), exec i s = .next t →
    t.dirty = dirtyTable i s ∧ t.fontAttached = fontTable i s) ∧
  (∀ (op : Byte) (s t : State), s.illegal op = .next t →
    t.dirty = s.dirty ∧ t.fontAttached = s.fontAttached) ∧
  (∀ (i : Instr) (s t : State) (d : Bool), i ≠ .flush → exec i s = .next t →
    ∃ t', exec i { s with dirty := d } = .next t' ∧ { t' with dirty := t.dirty } = t) ∧
  (∀ (i : Instr) (s t : State) (f : Bool), (∀ row len, i ≠ .drawText row len) →
    (∀ code x row, i ≠ .drawChar code x row) → exec i s = .next t →
    ∃ t', exec i { s with fontAttached := f } = .next t' ∧ { t' with fontAttached := t.fontAttached } = t)

/-- R25: a step that clears Dirty performed a FLUSH whose transaction succeeded, FLUSH transmits only when Dirty is 1, and a
successful transmission always clears it. -/
def Obligations.OnlyASuccessfulFlushCleans : Prop :=
  (∀ s t : State, step s = .next t → s.dirty = true → t.dirty = false →
    ∃ c, s.fetch = some c ∧ decode c.word = .command .flush ∧
      t.chan = s.chan ++ [⟨.data, s.serialize, .ok⟩]) ∧
  (∀ s t : State, step s = .next t → t.chan ≠ s.chan → s.dirty = true) ∧
  (∀ s t : State, ∀ bytes, step s = .next t → t.chan = s.chan ++ [⟨.data, bytes, .ok⟩] → t.dirty = false)

/-- R242: Dirty never under-approximates: a step after which some cell differs leaves Dirty 1. -/
def Obligations.ChangedCellMeansDirty : Prop :=
  ∀ s t : State, step s = .next t → ∀ i, t.buffer.read i ≠ s.buffer.read i → t.dirty = true

/-- R23: columns 129 to 131 of a page are changed by CLEAR and LOAD_IMAGE only, and column 128 of page p by those, by
CLEAR_ROW p and by DRAW_HLINE y with y / 8 = p. That no text command changes column 128 depends on D13 (TEXT_BOUND_INCLUSIVE
at its default, log 5). -/
def Obligations.PaddingWriters : Prop :=
  ∀ (i : Instr) (s t : State), exec i s = .next t →
    (∀ p col, p < 8 → 129 ≤ col → col ≤ 131 → t.buffer.read (132 * p + col) ≠ s.buffer.read (132 * p + col) →
      i = .clear ∨ i = .loadImage) ∧
    (∀ p, p < 8 → t.buffer.read (132 * p + 128) ≠ s.buffer.read (132 * p + 128) →
      i = .clear ∨ i = .loadImage ∨ (∃ row : Byte, i = .clearRow row ∧ row.toNat = p) ∨
      (∃ y : Byte, i = .drawHline y ∧ y.toNat / 8 = p ∧ y.toNat < 64))

/-- R26, R34: no command but ATTACH_FONT and DETACH_FONT writes FontAttached, StartChar, EndChar or changes the attached
table; and DETACH_FONT leaves StartChar and EndChar (R154). -/
def Obligations.FontRegisterWriters : Prop :=
  ∀ (i : Instr) (s t : State), (∀ first last, i ≠ .attachFont first last) → exec i s = .next t →
    t.startChar = s.startChar ∧ t.endChar = s.endChar ∧ t.glyphs = s.glyphs ∧
    (i ≠ .detachFont → t.fontAttached = s.fontAttached)

/-- R184 (D34): FLUSH is the only command that issues a transaction, one at most, and its mode is DATA. -/
def Obligations.OnlyFlushTransmits : Prop :=
  (∀ (i : Instr) (s t : State), exec i s = .next t →
    t.chan = s.chan ∨
    (i = .flush ∧ ∃ ans, t.chan = s.chan ++ [⟨.data, s.serialize, ans⟩])) ∧
  (∀ (op : Byte) (s t : State), s.illegal op = .next t → t.chan = s.chan)

/-- R30, R189, R201, R210: the logs only grow, and no command but DRAW_TEXT emits more than one event. The spec's logs are
`chan` and `diagLog`; that the responses are a log too is the model's choice (log 10). -/
def Obligations.LogsOnlyGrow : Prop :=
  ∀ s t : State, step s = .next t →
    s.chan <+: t.chan ∧ s.diagLog <+: t.diagLog ∧ s.responses <+: t.responses ∧
    (t.diagLog.length ≤ s.diagLog.length + 1 ∨
      ∃ c row len, s.fetch = some c ∧ decode c.word = .command (.drawText row len))

/-- R53: no command, and no step, ever makes an access outside the Buffer: nothing faults, in any state. -/
def Obligations.NothingFaults : Prop :=
  (∀ (i : Instr) (s : State) (r : Fault), exec i s ≠ .fault r) ∧ ∀ (s : State) (r : Fault), step s ≠ .fault r

/-- R87 (D29): a step is refused iff the host presents what it may not: a payload that does not fit the word (R87, U1), or
with ATTACH_FONT a table that is ill-formed for its range (U2). The refusals are logs 8 and 9. -/
def Obligations.RefusedIffIllPresented : Prop :=
  ∀ s : State, s.fontReady →
    ((∃ r, step s = .refused r) ↔ ∃ c, s.fetch = some c ∧ c.wf = false)

/-- R213, R245: no error is fatal and no command hangs: while the host keeps its contract every step answers a next state,
from every state in which an attached table is well-formed, which the step keeps. That a transmitting FLUSH is always
answered is the spec's decision D26: a bus that hangs (U13) is not modelled (log 12). -/
def Obligations.ContractHostNeverStops : Prop :=
  ∀ s : State, s.fontReady → (∀ c ∈ s.program, c.wf = true) →
    ∃ t, step s = .next t ∧ t.fontReady ∧ t.program = s.program

/-! ## Invariants -/

/-- Every step keeps the Buffer's canonical form: cells 0..1055 only (R20, R38), equal Buffers equal data. -/
def Obligations.StepKeepsCanonicalBuffer : Prop :=
  ∀ s t : State, s.canonical → step s = .next t → t.canonical

/-- R242 with R189: every step keeps this: while Dirty is 0 the Buffer is what the display was last sent. That it holds
right after reset rests on R37's zero Buffer and on `lastSent` being all zero then (D22, D23; log 4). -/
def Obligations.StepKeepsCleanIsSent : Prop :=
  ∀ s t : State, s.cleanIsSent → step s = .next t → t.cleanIsSent

/-- Every step keeps these: an attached table is well-formed (R151); every transaction is one whole Buffer in data mode
(R184, R185); one response per command issued (R32, R88); every event and response is a legal one (R88, R89). That the table
and the responses stand in State is the model's choice (logs 7, 10). -/
def Obligations.StepKeepsLogsAndFont : Prop :=
  ∀ s t : State, s.fontReady ∧ s.chanShaped ∧ s.counted ∧ s.logsLegal → step s = .next t →
    t.fontReady ∧ t.chanShaped ∧ t.counted ∧ t.logsLegal

/-- The invariants hold right after reset, with either value of RESET_DIRTY (D23). That an empty table and an empty list
stand for the fields that are the model's own is the model's choice (logs 1, 6, 7, 10). -/
def Obligations.ResetMeetsTheInvariants : Prop :=
  ∀ d : Bool,
    (State.resetWith d).canonical ∧ (State.resetWith d).cleanIsSent ∧ (State.resetWith d).fontReady ∧
    (State.resetWith d).chanShaped ∧ (State.resetWith d).counted ∧ (State.resetWith d).logsLegal

/-- R37: the values the spec gives for reset: every cell 0, Dirty 0, FontAttached 0, both logs empty. R37 infers them (D22,
D23, D24, D34): Dirty 0 is the default of the spec's open parameter RESET_DIRTY (log 4). -/
def Obligations.ResetValues : Prop :=
  (∀ i, i < 1056 → State.reset.buffer.read i = 0#8) ∧ State.reset.dirty = false ∧
  State.reset.fontAttached = false ∧ State.reset.chan = [] ∧ State.reset.diagLog = []

/-! ## A failed transmission (43_flush.md) -/

/-- R180, R181, R183: the transaction a failed FLUSH records is framed as the successful one is, but for the bytes: of the
1056 cells in index order the channel took the first n, then chip-select is deasserted. That the mode signal comes before
chip-select is the spec's own reading (last sentence of R181), and that the frame of a failed transaction is bracketed as
R180 says of each transaction is log 17. That no event restores the mode signal after the failure is the model's choice,
which the spec leaves open (N11; log 18). -/
def Obligations.FailedFlushFrame : Prop :=
  ∀ (s : State) (n : Fin 1057), s.payload = .absent → s.dirty = true → s.nextAnswer = .fail n →
    ∃ t tr, exec .flush s = .next t ∧ t.chan = s.chan ++ [tr] ∧ tr.answer = .fail n ∧
      tr.frame = [.driveMode .data, .assertSelect] ++
        (List.range n.val).map (fun k => .byte (s.buffer.read k)) ++ [.deassertSelect]
end

