-- ==== Sys2Proof/Laws/Decode.lean ====
section
/-!
SUPPORT. Sys2Proof/Laws/Decode.lean: the fields of a packed word (R81).
-/

namespace Sys2Proof

theorem append_toNat {n m : Nat} (x : BitVec n) (y : BitVec m) :
    (x ++ y).toNat = x.toNat * 2 ^ m + y.toNat := by
  rw [BitVec.toNat_append, ← Nat.shiftLeft_add_eq_or_of_lt y.isLt, Nat.shiftLeft_eq]

theorem pack_sum (op a b c : Byte) :
    (pack op a b c).toNat = ((op.toNat * 2 ^ 8 + a.toNat) * 2 ^ 8 + b.toNat) * 2 ^ 8 + c.toNat := by
  have e : ∀ w : BitVec (8 + 8 + 8 + 8), (w : CommandWord) = pack op a b c → BitVec.toNat w = (pack op a b c).toNat :=
    fun _ h => congrArg BitVec.toNat h
  rw [← e (op ++ a ++ b ++ c) rfl, append_toNat, append_toNat, append_toNat]

theorem field_toNat (w : CommandWord) (k n : Nat) : (w.extractLsb' k n).toNat = w.toNat / 2 ^ k % 2 ^ n := by
  rw [BitVec.extractLsb'_toNat, Nat.shiftRight_eq_div_pow]

theorem opField_pack (op a b c : Byte) : opField (pack op a b c) = op := by
  apply BitVec.eq_of_toNat_eq
  rw [opField, field_toNat, pack_sum]
  have := op.isLt; have := a.isLt; have := b.isLt; have := c.isLt
  omega

theorem aField_pack (op a b c : Byte) : aField (pack op a b c) = a := by
  apply BitVec.eq_of_toNat_eq
  rw [aField, field_toNat, pack_sum]
  have := op.isLt; have := a.isLt; have := b.isLt; have := c.isLt
  omega

theorem bField_pack (op a b c : Byte) : bField (pack op a b c) = b := by
  apply BitVec.eq_of_toNat_eq
  rw [bField, field_toNat, pack_sum]
  have := op.isLt; have := a.isLt; have := b.isLt; have := c.isLt
  omega

theorem cField_pack (op a b c : Byte) : cField (pack op a b c) = c := by
  apply BitVec.eq_of_toNat_eq
  rw [cField, field_toNat, pack_sum]
  have := op.isLt; have := a.isLt; have := b.isLt; have := c.isLt
  omega

/-- `len = b·256 + c` (R83). -/
theorem lenField_pack_toNat (op a b c : Byte) : (lenField (pack op a b c)).toNat = b.toNat * 256 + c.toNat := by
  rw [lenField, field_toNat, pack_sum]
  have := op.isLt; have := a.isLt; have := b.isLt; have := c.isLt
  omega

/-- A length is its two bytes, the more significant one in field `b` (R81). -/
theorem lenField_pack_split (op a : Byte) (len : Len) :
    lenField (pack op a (len.extractLsb' 8 8) (len.extractLsb' 0 8)) = len := by
  apply BitVec.eq_of_toNat_eq
  rw [lenField_pack_toNat, BitVec.extractLsb'_toNat, BitVec.extractLsb'_toNat, Nat.shiftRight_eq_div_pow,
    Nat.shiftRight_eq_div_pow]
  have := len.isLt
  omega

/-- Every word is its four fields (R81). -/
theorem pack_fields (w : CommandWord) : pack (opField w) (aField w) (bField w) (cField w) = w := by
  apply BitVec.eq_of_toNat_eq
  rw [pack_sum, opField, aField, bField, cField, field_toNat, field_toNat, field_toNat, field_toNat]
  have := w.isLt
  omega

/-- Matching a row of the opcode map is comparing the opcode byte (R82). -/
theorem and_opMask_iff (w : CommandWord) (k : Nat) (hk : k < 256) :
    w &&& 0xFF000000#32 = BitVec.ofNat 32 (k * 2 ^ 24) ↔ (opField w).toNat = k := by
  have hmask : ∀ i : Nat, i < 32 → (0xFF000000#32).getLsbD i = decide (24 ≤ i) := by decide
  have h1 : w &&& 0xFF000000#32 = (w >>> 24) <<< 24 := by
    apply BitVec.eq_of_getLsbD_eq
    intro i hi
    rw [BitVec.getLsbD_and, hmask i hi]
    by_cases h : 24 ≤ i
    · simp [h, hi, show ¬ i < 24 by omega]
    · simp [h, hi, show i < 24 by omega]
  rw [h1, ← BitVec.toNat_inj, opField, field_toNat]
  simp only [BitVec.toNat_shiftLeft, BitVec.toNat_ushiftRight, BitVec.toNat_ofNat, Nat.shiftLeft_eq,
    Nat.shiftRight_eq_div_pow]
  have := w.isLt
  omega

end Sys2Proof
end

