-- ==== Sys2Proof/Laws/Operands.lean ====
section
/-!
SUPPORT. Sys2Proof/Laws/Operands.lean: the numbers behind the operand forms (R52, R53, R137).
-/

namespace Sys2Proof.Machine

theorem cellAt_eq (page column : Nat) : cellAt page column = 132 * page + column := by
  simp [cellAt, Config.bufferWidth, Nat.mul_comm]

theorem pageOf_eq (y : Nat) : pageOf y = y / 8 := rfl

theorem bitIndex_eq (y : Nat) : bitIndex y = y % 8 := rfl

theorem cellIndex_eq (x y : Nat) : cellIndex x y = 132 * (y / 8) + x := by
  rw [cellIndex, cellAt_eq, pageOf_eq]

theorem spanWidth_eq : spanWidth = 129 := rfl

theorem clampRow_eq (row : Byte) : clampRow row = min row.toNat 7 := by
  unfold clampRow Config.pageCount; split <;> omega

theorem clampRow_lt (row : Byte) : clampRow row < 8 := by
  rw [clampRow_eq]; omega

theorem rowBase_eq (row : Byte) : rowBase row = 132 * clampRow row := by
  rw [rowBase, cellAt_eq, Nat.add_zero]

/-- The text bound with TEXT_BOUND_INCLUSIVE at its default (D13). -/
theorem rowEnd_eq (row : Byte) : rowEnd row = rowBase row + 128 := by
  simp [rowEnd, Config.pixelWidth, Config.textBoundInclusive]

theorem charColumns_mapped {s : State} {ch : Byte} (h : mapped s ch = true) :
    charColumns s ch = glyphColumns s ch ++ [0#8] := by
  simp [charColumns, h, Config.spacerWidth]

theorem charColumns_unmapped {s : State} {ch : Byte} (h : mapped s ch = false) :
    charColumns s ch = List.replicate 5 0#8 := by
  simp [charColumns, h, Config.blankWidth]

@[simp] theorem textColumns_nil (s : State) : textColumns s [] = [] := rfl

theorem textColumns_cons (s : State) (ch : Byte) (chars : List Byte) :
    textColumns s (ch :: chars) = charColumns s ch ++ textColumns s chars := by
  simp [textColumns]

@[simp] theorem textEvents_nil (s : State) : textEvents s [] = [] := rfl

theorem textEvents_cons (s : State) (ch : Byte) (chars : List Byte) :
    textEvents s (ch :: chars) =
      (if !mapped s ch && ch != Config.spaceCode then [.unmappedGlyph ch] else []) ++ textEvents s chars := by
  simp only [textEvents, List.filter_cons]
  split <;> simp

theorem mapped_iff (s : State) (code : Byte) :
    mapped s code = true ↔ s.startChar.toNat ≤ code.toNat ∧ code.toNat ≤ s.endChar.toNat := by
  simp [mapped]

/-- The check of a table is R151's sentence. -/
theorem tableWf_iff (first last : Byte) (g : GlyphTable) :
    tableWf first last g = true ↔
      (∀ e ∈ g, e.length = 1 + (e.getD 0 0#8).toNat) ∧
      (first.toNat ≤ last.toNat → g.length = last.toNat - first.toNat + 1) := by
  have he : ∀ e : List Byte, entryWf e = true ↔ e.length = 1 + (e.getD 0 0#8).toNat := by
    intro e
    cases e with
    | nil => simp [entryWf]
    | cons w cols => simp only [entryWf, beq_iff_eq, List.length_cons, List.getD_cons_zero]; omega
  simp only [tableWf, Bool.and_eq_true, Bool.or_eq_true, decide_eq_true_eq, List.all_eq_true, he, beq_iff_eq]
  constructor
  · rintro ⟨h1, h2⟩
    exact ⟨h2, fun h => by omega⟩
  · rintro ⟨h1, h2⟩
    exact ⟨by rcases Nat.lt_or_ge last.toNat first.toNat with h | h; exacts [.inl h, .inr (h2 h)], h1⟩

/-- A glyph has as many columns as its width byte says (R150). -/
@[simp] theorem glyphColumns_length (s : State) (code : Byte) :
    (glyphColumns s code).length = (glyphRead s (code.toNat - s.startChar.toNat) 0).toNat := by
  simp [glyphColumns]

end Sys2Proof.Machine
end

