-- ==== Sys2Proof/Laws/Memory.lean ====
section
/-!
SUPPORT. Sys2Proof/Laws/Memory.lean: the laws of the Buffer's operations. The read laws hold for every list; the canonical
form is kept by every write, and two canonical Buffers with equal reads are equal.
-/

namespace Sys2Proof.Machine

@[simp] theorem Memory.read_nil (i : Nat) : Memory.read [] i = 0#8 := rfl

theorem Memory.read_cons (c : Host.Cell) (m : Memory) (i : Nat) :
    Memory.read (c :: m) i = if c.1 < i then Memory.read m i else if c.1 = i then c.2 else 0#8 := rfl

/-- The cells below the one read play no part. -/
theorem Memory.read_dropWhile (m : Memory) {j i : Nat} (h : j ≤ i) :
    Memory.read (m.dropWhile fun c => decide (c.1 < j)) i = Memory.read m i := by
  induction m with
  | nil => rfl
  | cons c m ih =>
    by_cases hc : c.1 < j
    · simp [hc, Memory.read_cons, ih, Nat.lt_of_lt_of_le hc h]
    · simp [hc]

/-- A run read is the single reads, cell by cell. -/
theorem Memory.readRun_eq_map (m : Memory) (a n : Nat) :
    m.readRun a n = (List.range n).map fun k => m.read (a + k) := by
  induction n generalizing m a with
  | zero => rfl
  | succ n ih =>
    rw [Memory.readRun, ih, List.range_succ_eq_map]
    simp only [List.map_cons, List.map_map, Nat.add_zero]
    congr 1
    refine List.map_congr_left fun k _ => ?_
    simp only [Function.comp]
    rw [Memory.read_dropWhile m (by omega)]
    congr 1; omega

@[simp] theorem Memory.readRun_length (m : Memory) (a n : Nat) : (m.readRun a n).length = n := by
  simp [Memory.readRun_eq_map]

theorem Memory.readRun_getElem (m : Memory) (a n k : Nat) (h : k < (m.readRun a n).length) :
    (m.readRun a n)[k] = m.read (a + k) := by
  simp [Memory.readRun_eq_map]

/-- Every cell laid out lies at or above the first. -/
theorem Memory.le_of_mem_cells {a : Nat} {bs : List Byte} {c : Host.Cell} (h : c ∈ Memory.cells a bs) :
    a ≤ c.1 ∧ c.1 < a + bs.length ∧ c.2 ≠ 0#8 := by
  induction bs generalizing a with
  | nil => simp [Memory.cells] at h
  | cons b bs ih =>
    by_cases hb : b = 0#8
    · simp only [Memory.cells, hb, if_true] at h
      obtain ⟨h1, h2, h3⟩ := ih h
      exact ⟨by omega, by simp only [List.length_cons]; omega, h3⟩
    · simp only [Memory.cells, hb, if_false, List.mem_cons] at h
      rcases h with rfl | h
      · exact ⟨Nat.le_refl _, by simp only [List.length_cons]; omega, hb⟩
      · obtain ⟨h1, h2, h3⟩ := ih h
        exact ⟨by omega, by simp only [List.length_cons]; omega, h3⟩

/-- Reading in front of a rest whose cells all lie above. -/
theorem Memory.read_append_above (p q : Memory) (i : Nat) (h : ∀ c, q.head? = some c → i < c.1) :
    Memory.read (p ++ q) i = Memory.read p i := by
  induction p with
  | nil =>
    cases q with
    | nil => rfl
    | cons c q =>
      have := h c rfl
      simp [Memory.read_cons, show ¬ c.1 < i by omega, show ¬ c.1 = i by omega]
  | cons c p ih => simp [Memory.read_cons, ih]

/-- Reading past a front whose cells all lie below. -/
theorem Memory.read_append_below (p q : Memory) (i : Nat) (h : ∀ c ∈ p, c.1 < i) :
    Memory.read (p ++ q) i = Memory.read q i := by
  induction p with
  | nil => rfl
  | cons c p ih =>
    have hc := h c (by simp)
    rw [List.cons_append, Memory.read_cons, if_pos hc, ih fun d hd => h d (by simp [hd])]

theorem Memory.read_cells (a : Nat) (bs : List Byte) (i : Nat) :
    Memory.read (Memory.cells a bs) i = if a ≤ i ∧ i < a + bs.length then bs.getD (i - a) 0#8 else 0#8 := by
  induction bs generalizing a with
  | nil => simp [Memory.cells]
  | cons b bs ih =>
    have hrest : i ≠ a → Memory.read (Memory.cells (a + 1) bs) i =
        if a ≤ i ∧ i < a + (b :: bs).length then (b :: bs).getD (i - a) 0#8 else 0#8 := by
      intro hi
      rw [ih]
      simp only [List.length_cons]
      by_cases h : a + 1 ≤ i ∧ i < a + 1 + bs.length
      · obtain ⟨d, rfl⟩ : ∃ d, i = a + 1 + d := ⟨i - (a + 1), by omega⟩
        rw [if_pos h, if_pos (by omega)]
        rw [show a + 1 + d - (a + 1) = d by omega, show a + 1 + d - a = d + 1 by omega]
        simp
      · rw [if_neg h, if_neg (by omega)]
    by_cases hb : b = 0#8
    · simp only [Memory.cells, hb, if_true]
      by_cases hi : i = a
      · subst hi
        rw [ih, if_neg (by omega)]
        simp
      · subst hb; exact hrest hi
    · simp only [Memory.cells, hb, if_false, Memory.read_cons]
      by_cases hi : i = a
      · subst hi; simp
      · by_cases hlt : a < i
        · rw [if_pos hlt]; exact hrest hi
        · rw [if_neg hlt, if_neg (by omega), if_neg (by omega)]

theorem Memory.head_dropWhile (m : Memory) (j : Nat) (c : Host.Cell)
    (h : (m.dropWhile fun c => decide (c.1 < j)).head? = some c) : j ≤ c.1 := by
  induction m with
  | nil => simp at h
  | cons d m ih =>
    by_cases hd : d.1 < j
    · exact ih (by simpa [List.dropWhile_cons, hd] using h)
    · simp [hd] at h
      subst h; omega

theorem Memory.lt_of_mem_takeWhile (m : Memory) (j : Nat) (c : Host.Cell)
    (h : c ∈ m.takeWhile fun c => decide (c.1 < j)) : c.1 < j := by
  simpa using List.mem_takeWhile_imp h

theorem Memory.read_takeWhile (m : Memory) {i j : Nat} (h : i < j) :
    Memory.read (m.takeWhile fun c => decide (c.1 < j)) i = Memory.read m i := by
  conv_rhs => rw [← List.takeWhile_append_dropWhile (p := fun c : Host.Cell => decide (c.1 < j)) (l := m)]
  exact (Memory.read_append_above _ _ _ fun c hc =>
    Nat.lt_of_lt_of_le h (Memory.head_dropWhile m j c hc)).symm

/-- What a cell reads after a run is written: the byte written there, and every other cell as before. -/
theorem Memory.read_writeRun (m : Memory) (a : Nat) (bs : List Byte) (i : Nat) :
    (m.writeRun a bs).read i = if a ≤ i ∧ i < a + bs.length then bs.getD (i - a) 0#8 else m.read i := by
  unfold Memory.writeRun
  rw [List.append_assoc]
  by_cases hlo : i < a
  · rw [Memory.read_append_above, Memory.read_takeWhile m hlo, if_neg (by omega)]
    intro c hc
    rw [List.head?_append] at hc
    rcases ho : (Memory.cells a bs).head? with _ | d
    · rw [ho] at hc
      have := Memory.head_dropWhile m (a + bs.length) c (by simpa using hc)
      omega
    · rw [ho] at hc
      have := Memory.le_of_mem_cells (List.mem_of_head? ho)
      simp at hc; subst hc; omega
  · rw [Memory.read_append_below _ _ _ fun c hc => by
      have := Memory.lt_of_mem_takeWhile m a c hc; omega]
    by_cases hhi : i < a + bs.length
    · rw [Memory.read_append_above, Memory.read_cells]
      · rw [if_pos (by omega), if_pos (by omega)]
      · intro c hc
        have := Memory.head_dropWhile m (a + bs.length) c hc; omega
    · rw [Memory.read_append_below _ _ _ fun c hc => by
        have := Memory.le_of_mem_cells hc; omega]
      rw [Memory.read_dropWhile m (by omega), if_neg (by omega)]

/-- A cell outside the run keeps its value. -/
theorem Memory.read_writeRun_outside (m : Memory) (a : Nat) (bs : List Byte) (i : Nat)
    (h : i < a ∨ a + bs.length ≤ i) : (m.writeRun a bs).read i = m.read i := by
  rw [Memory.read_writeRun, if_neg (by omega)]

/-- A cell of the run holds the byte written there. -/
theorem Memory.read_writeRun_inside (m : Memory) (a : Nat) (bs : List Byte) (k : Nat) (h : k < bs.length) :
    (m.writeRun a bs).read (a + k) = bs[k] := by
  rw [Memory.read_writeRun, if_pos (by omega)]
  simp [h]

/-- A run of one value. -/
theorem Memory.read_fill (m : Memory) (a n : Nat) (v : Byte) (i : Nat) :
    (m.writeRun a (List.replicate n v)).read i = if a ≤ i ∧ i < a + n then v else m.read i := by
  rw [Memory.read_writeRun, List.length_replicate]
  by_cases h : a ≤ i ∧ i < a + n
  · rw [if_pos h, if_pos h, List.getD_replicate _ (by omega)]
  · rw [if_neg h, if_neg h]

/-- A run read, changed byte by byte, and written back. -/
theorem Memory.read_modify (m : Memory) (a n : Nat) (f : Byte → Byte) (i : Nat) :
    (m.writeRun a ((m.readRun a n).map f)).read i = if a ≤ i ∧ i < a + n then f (m.read i) else m.read i := by
  rw [Memory.read_writeRun, List.length_map, Memory.readRun_length]
  by_cases h : a ≤ i ∧ i < a + n
  · have hk : i - a < n := by omega
    rw [if_pos h, if_pos h, Memory.readRun_eq_map]
    simp [hk, show a + (i - a) = i by omega]
  · rw [if_neg h, if_neg h]

@[simp] theorem Memory.writeRun_nil (m : Memory) (a : Nat) : m.writeRun a [] = m := by
  simp [Memory.writeRun, Memory.cells, List.takeWhile_append_dropWhile]

theorem Memory.cells_append (a : Nat) (bs cs : List Byte) :
    Memory.cells a (bs ++ cs) = Memory.cells a bs ++ Memory.cells (a + bs.length) cs := by
  induction bs generalizing a with
  | nil => simp [Memory.cells]
  | cons b bs ih =>
    have e : a + 1 + bs.length = a + (bs.length + 1) := by omega
    by_cases hb : b = 0#8 <;> simp [Memory.cells, hb, ih, e]

theorem Memory.dropWhile_append_below (p q : Memory) (j : Nat) (h : ∀ c ∈ p, c.1 < j) :
    (p ++ q).dropWhile (fun c => decide (c.1 < j)) = q.dropWhile fun c => decide (c.1 < j) := by
  induction p with
  | nil => rfl
  | cons c p ih =>
    have hc := h c (by simp)
    simp [hc, ih fun d hd => h d (by simp [hd])]

theorem Memory.takeWhile_append_below (p q : Memory) (j : Nat) (h : ∀ c ∈ p, c.1 < j) :
    (p ++ q).takeWhile (fun c => decide (c.1 < j)) = p ++ q.takeWhile fun c => decide (c.1 < j) := by
  induction p with
  | nil => rfl
  | cons c p ih =>
    have hc := h c (by simp)
    simp [hc, ih fun d hd => h d (by simp [hd])]

theorem Memory.takeWhile_above (q : Memory) (j : Nat) (h : ∀ c, q.head? = some c → j ≤ c.1) :
    q.takeWhile (fun c => decide (c.1 < j)) = [] := by
  cases q with
  | nil => rfl
  | cons c q =>
    have := h c rfl
    simp [show ¬ c.1 < j by omega]

theorem Memory.dropWhile_dropWhile (m : Memory) {i j : Nat} (h : i ≤ j) :
    (m.dropWhile fun c => decide (c.1 < i)).dropWhile (fun c => decide (c.1 < j)) =
      m.dropWhile fun c => decide (c.1 < j) := by
  conv_rhs => rw [← List.takeWhile_append_dropWhile (p := fun c : Host.Cell => decide (c.1 < i)) (l := m)]
  exact (Memory.dropWhile_append_below _ _ _ fun c hc =>
    Nat.lt_of_lt_of_le (Memory.lt_of_mem_takeWhile m i c hc) h).symm

/-- Two runs written one after the other, the second where the first ends, are one run. -/
theorem Memory.writeRun_writeRun (m : Memory) (a : Nat) (bs cs : List Byte) :
    (m.writeRun a bs).writeRun (a + bs.length) cs = m.writeRun a (bs ++ cs) := by
  have hp : ∀ c ∈ m.takeWhile (fun c => decide (c.1 < a)) ++ Memory.cells a bs, c.1 < a + bs.length := by
    intro c hc
    rcases List.mem_append.mp hc with hc | hc
    · have := Memory.lt_of_mem_takeWhile m a c hc; omega
    · exact (Memory.le_of_mem_cells hc).2.1
  have hp' : ∀ c ∈ m.takeWhile (fun c => decide (c.1 < a)) ++ Memory.cells a bs,
      c.1 < a + bs.length + cs.length := fun c hc => by have := hp c hc; omega
  unfold Memory.writeRun
  rw [Memory.takeWhile_append_below _ _ _ hp, Memory.dropWhile_append_below _ _ _ hp',
    Memory.takeWhile_above _ _ (Memory.head_dropWhile m _), Memory.dropWhile_dropWhile _ (by omega),
    Memory.cells_append]
  simp [Nat.add_assoc]

theorem Memory.cells_pairwise (a : Nat) (bs : List Byte) :
    (Memory.cells a bs).Pairwise fun c d => c.1 < d.1 := by
  induction bs generalizing a with
  | nil => simp [Memory.cells]
  | cons b bs ih =>
    by_cases hb : b = 0#8
    · simpa [Memory.cells, hb] using ih (a + 1)
    · simp only [Memory.cells, hb, if_false, List.pairwise_cons]
      exact ⟨fun c hc => by have := (Memory.le_of_mem_cells hc).1; omega, ih (a + 1)⟩

theorem Memory.le_of_mem_dropWhile {m : Memory} (hm : m.Pairwise fun c d => c.1 < d.1) {j : Nat} {c : Host.Cell}
    (h : c ∈ m.dropWhile fun c => decide (c.1 < j)) : j ≤ c.1 := by
  induction m with
  | nil => simp at h
  | cons d m ih =>
    rw [List.pairwise_cons] at hm
    by_cases hd : d.1 < j
    · exact ih hm.2 (by simpa [List.dropWhile_cons, hd] using h)
    · have hc : c = d ∨ c ∈ m := by simpa [List.dropWhile_cons, hd] using h
      rcases hc with rfl | hc
      · omega
      · have := hm.1 c hc; omega

/-- A write inside the Buffer keeps the canonical form. -/
theorem Memory.writeRun_wf {m : Memory} (hm : m.wf) {a : Nat} {bs : List Byte}
    (h : bs = [] ∨ a + bs.length ≤ Config.bufferCount) : (m.writeRun a bs).wf := by
  rcases h with rfl | h
  · simpa using hm
  · obtain ⟨hs, hc⟩ := hm
    refine ⟨?_, fun c hcm => ?_⟩
    · unfold Memory.writeRun
      refine List.pairwise_append.mpr ⟨List.pairwise_append.mpr
        ⟨hs.sublist (List.takeWhile_sublist _), Memory.cells_pairwise a bs, fun c hcm d hd => ?_⟩,
        hs.sublist (List.dropWhile_sublist _), fun c hcm d hd => ?_⟩
      · have := Memory.lt_of_mem_takeWhile m a c hcm
        have := (Memory.le_of_mem_cells hd).1; omega
      · have hd' := Memory.le_of_mem_dropWhile hs hd
        rcases List.mem_append.mp hcm with hcm | hcm
        · have := Memory.lt_of_mem_takeWhile m a c hcm; omega
        · have := (Memory.le_of_mem_cells hcm).2.1; omega
    · unfold Memory.writeRun at hcm
      rcases List.mem_append.mp hcm with hcm | hcm
      · rcases List.mem_append.mp hcm with hcm | hcm
        · exact hc c ((List.takeWhile_sublist _).subset hcm)
        · have := Memory.le_of_mem_cells hcm
          exact ⟨by omega, this.2.2⟩
      · exact hc c ((List.dropWhile_sublist _).subset hcm)

/-- A canonical Buffer reads 0 at and above its end. -/
theorem Memory.read_above {m : Memory} (hm : m.wf) {i : Nat} (h : Config.bufferCount ≤ i) : m.read i = 0#8 := by
  have := Memory.read_append_below m [] i fun c hc => Nat.lt_of_lt_of_le (hm.2 c hc).1 h
  simpa using this

/-- Two lists in rising order with no zero cell that read alike everywhere are the same list. -/
theorem Memory.eq_of_read {m n : Memory} (hm : m.Pairwise fun c d => c.1 < d.1) (hm0 : ∀ c ∈ m, c.2 ≠ 0#8)
    (hn : n.Pairwise fun c d => c.1 < d.1) (hn0 : ∀ c ∈ n, c.2 ≠ 0#8) (h : ∀ i, m.read i = n.read i) : m = n := by
  have below : ∀ {p : Memory} {c : Host.Cell}, (c :: p).Pairwise (fun c d => c.1 < d.1) → ∀ i, i ≤ c.1 → Memory.read p i = 0#8 := by
    intro p c hp i hi
    have hp' := (List.pairwise_cons.mp hp).1
    have := Memory.read_append_above [] p i fun d hd => by
      have := hp' d (List.mem_of_head? hd); omega
    simpa using this
  induction m generalizing n with
  | nil =>
    cases n with
    | nil => rfl
    | cons d n =>
      have := h d.1
      simp [Memory.read_cons] at this
      exact absurd this.symm (hn0 d (by simp))
  | cons c m ih =>
    cases n with
    | nil =>
      have := h c.1
      simp [Memory.read_cons] at this
      exact absurd this (hm0 c (by simp))
    | cons d n =>
      have hcd : c.1 = d.1 := by
        rcases Nat.lt_trichotomy c.1 d.1 with hlt | heq | hgt
        · have := h c.1
          simp [Memory.read_cons, show ¬ d.1 < c.1 by omega, show ¬ d.1 = c.1 by omega] at this
          exact absurd this (hm0 c (by simp))
        · exact heq
        · have := h d.1
          simp [Memory.read_cons, show ¬ c.1 < d.1 by omega, show ¬ c.1 = d.1 by omega] at this
          exact absurd this.symm (hn0 d (by simp))
      have hv : c.2 = d.2 := by simpa [Memory.read_cons, hcd] using h c.1
      have hrest : m = n := by
        refine ih (List.pairwise_cons.mp hm).2 (fun e he => hm0 e (by simp [he]))
          (List.pairwise_cons.mp hn).2 (fun e he => hn0 e (by simp [he])) fun i => ?_
        by_cases hi : i ≤ c.1
        · rw [below hm i hi, below hn i (by omega)]
        · have := h i
          rwa [Memory.read_cons, Memory.read_cons, if_pos (by omega), if_pos (by omega)] at this
      rw [show c = d from Prod.ext hcd hv, hrest]

/-- Canonical Buffers are equal iff they read alike in all 1056 cells. -/
theorem Memory.wf_ext {m n : Memory} (hm : m.wf) (hn : n.wf)
    (h : ∀ i, i < Config.bufferCount → m.read i = n.read i) : m = n := by
  refine Memory.eq_of_read hm.1 (fun c hc => (hm.2 c hc).2) hn.1 (fun c hc => (hn.2 c hc).2) fun i => ?_
  by_cases hi : i < Config.bufferCount
  · exact h i hi
  · rw [Memory.read_above hm (by omega), Memory.read_above hn (by omega)]

end Sys2Proof.Machine
end

