-- ==== Sys2Proof/Laws/State.lean ====
section
/-!
SUPPORT. Sys2Proof/Laws/State.lean: one lemma per field and update of the state, all true by unfolding, so that no proof
unfolds a record update; and the same for what is read off the state.
-/

namespace Sys2Proof.Machine

@[simp] theorem State.setBuffer_buffer (s : State) (m : Memory) : (s.setBuffer m).buffer = m := rfl
@[simp] theorem State.setBuffer_dirty (s : State) (m : Memory) : (s.setBuffer m).dirty = s.dirty := rfl
@[simp] theorem State.setBuffer_fontAttached (s : State) (m : Memory) : (s.setBuffer m).fontAttached = s.fontAttached := rfl
@[simp] theorem State.setBuffer_startChar (s : State) (m : Memory) : (s.setBuffer m).startChar = s.startChar := rfl
@[simp] theorem State.setBuffer_endChar (s : State) (m : Memory) : (s.setBuffer m).endChar = s.endChar := rfl
@[simp] theorem State.setBuffer_glyphs (s : State) (m : Memory) : (s.setBuffer m).glyphs = s.glyphs := rfl
@[simp] theorem State.setBuffer_chan (s : State) (m : Memory) : (s.setBuffer m).chan = s.chan := rfl
@[simp] theorem State.setBuffer_diagLog (s : State) (m : Memory) : (s.setBuffer m).diagLog = s.diagLog := rfl
@[simp] theorem State.setBuffer_responses (s : State) (m : Memory) : (s.setBuffer m).responses = s.responses := rfl
@[simp] theorem State.setBuffer_answers (s : State) (m : Memory) : (s.setBuffer m).answers = s.answers := rfl
@[simp] theorem State.setBuffer_program (s : State) (m : Memory) : (s.setBuffer m).program = s.program := rfl
@[simp] theorem State.setBuffer_pc (s : State) (m : Memory) : (s.setBuffer m).pc = s.pc := rfl
@[simp] theorem State.setBuffer_fetch (s : State) (m : Memory) : (s.setBuffer m).fetch = s.fetch := rfl
@[simp] theorem State.setBuffer_payload (s : State) (m : Memory) : (s.setBuffer m).payload = s.payload := rfl
@[simp] theorem State.setBuffer_lastSent (s : State) (m : Memory) : (s.setBuffer m).lastSent = s.lastSent := rfl

@[simp] theorem State.markDirty_buffer (s : State) : (s.markDirty).buffer = s.buffer := rfl
@[simp] theorem State.markDirty_dirty (s : State) : (s.markDirty).dirty = true := rfl
@[simp] theorem State.markDirty_fontAttached (s : State) : (s.markDirty).fontAttached = s.fontAttached := rfl
@[simp] theorem State.markDirty_startChar (s : State) : (s.markDirty).startChar = s.startChar := rfl
@[simp] theorem State.markDirty_endChar (s : State) : (s.markDirty).endChar = s.endChar := rfl
@[simp] theorem State.markDirty_glyphs (s : State) : (s.markDirty).glyphs = s.glyphs := rfl
@[simp] theorem State.markDirty_chan (s : State) : (s.markDirty).chan = s.chan := rfl
@[simp] theorem State.markDirty_diagLog (s : State) : (s.markDirty).diagLog = s.diagLog := rfl
@[simp] theorem State.markDirty_responses (s : State) : (s.markDirty).responses = s.responses := rfl
@[simp] theorem State.markDirty_answers (s : State) : (s.markDirty).answers = s.answers := rfl
@[simp] theorem State.markDirty_program (s : State) : (s.markDirty).program = s.program := rfl
@[simp] theorem State.markDirty_pc (s : State) : (s.markDirty).pc = s.pc := rfl
@[simp] theorem State.markDirty_fetch (s : State) : (s.markDirty).fetch = s.fetch := rfl
@[simp] theorem State.markDirty_payload (s : State) : (s.markDirty).payload = s.payload := rfl
@[simp] theorem State.markDirty_serialize (s : State) : (s.markDirty).serialize = s.serialize := rfl
@[simp] theorem State.markDirty_lastSent (s : State) : (s.markDirty).lastSent = s.lastSent := rfl

@[simp] theorem State.clearDirty_buffer (s : State) : (s.clearDirty).buffer = s.buffer := rfl
@[simp] theorem State.clearDirty_dirty (s : State) : (s.clearDirty).dirty = false := rfl
@[simp] theorem State.clearDirty_fontAttached (s : State) : (s.clearDirty).fontAttached = s.fontAttached := rfl
@[simp] theorem State.clearDirty_startChar (s : State) : (s.clearDirty).startChar = s.startChar := rfl
@[simp] theorem State.clearDirty_endChar (s : State) : (s.clearDirty).endChar = s.endChar := rfl
@[simp] theorem State.clearDirty_glyphs (s : State) : (s.clearDirty).glyphs = s.glyphs := rfl
@[simp] theorem State.clearDirty_chan (s : State) : (s.clearDirty).chan = s.chan := rfl
@[simp] theorem State.clearDirty_diagLog (s : State) : (s.clearDirty).diagLog = s.diagLog := rfl
@[simp] theorem State.clearDirty_responses (s : State) : (s.clearDirty).responses = s.responses := rfl
@[simp] theorem State.clearDirty_answers (s : State) : (s.clearDirty).answers = s.answers := rfl
@[simp] theorem State.clearDirty_program (s : State) : (s.clearDirty).program = s.program := rfl
@[simp] theorem State.clearDirty_pc (s : State) : (s.clearDirty).pc = s.pc := rfl
@[simp] theorem State.clearDirty_fetch (s : State) : (s.clearDirty).fetch = s.fetch := rfl
@[simp] theorem State.clearDirty_payload (s : State) : (s.clearDirty).payload = s.payload := rfl
@[simp] theorem State.clearDirty_serialize (s : State) : (s.clearDirty).serialize = s.serialize := rfl
@[simp] theorem State.clearDirty_lastSent (s : State) : (s.clearDirty).lastSent = s.lastSent := rfl

@[simp] theorem State.attach_buffer (s : State) (first last : Byte) (g : GlyphTable) : (s.attach first last g).buffer = s.buffer := rfl
@[simp] theorem State.attach_dirty (s : State) (first last : Byte) (g : GlyphTable) : (s.attach first last g).dirty = s.dirty := rfl
@[simp] theorem State.attach_fontAttached (s : State) (first last : Byte) (g : GlyphTable) : (s.attach first last g).fontAttached = true := rfl
@[simp] theorem State.attach_startChar (s : State) (first last : Byte) (g : GlyphTable) : (s.attach first last g).startChar = first := rfl
@[simp] theorem State.attach_endChar (s : State) (first last : Byte) (g : GlyphTable) : (s.attach first last g).endChar = last := rfl
@[simp] theorem State.attach_glyphs (s : State) (first last : Byte) (g : GlyphTable) : (s.attach first last g).glyphs = g := rfl
@[simp] theorem State.attach_chan (s : State) (first last : Byte) (g : GlyphTable) : (s.attach first last g).chan = s.chan := rfl
@[simp] theorem State.attach_diagLog (s : State) (first last : Byte) (g : GlyphTable) : (s.attach first last g).diagLog = s.diagLog := rfl
@[simp] theorem State.attach_responses (s : State) (first last : Byte) (g : GlyphTable) : (s.attach first last g).responses = s.responses := rfl
@[simp] theorem State.attach_answers (s : State) (first last : Byte) (g : GlyphTable) : (s.attach first last g).answers = s.answers := rfl
@[simp] theorem State.attach_program (s : State) (first last : Byte) (g : GlyphTable) : (s.attach first last g).program = s.program := rfl
@[simp] theorem State.attach_pc (s : State) (first last : Byte) (g : GlyphTable) : (s.attach first last g).pc = s.pc := rfl
@[simp] theorem State.attach_fetch (s : State) (first last : Byte) (g : GlyphTable) : (s.attach first last g).fetch = s.fetch := rfl
@[simp] theorem State.attach_payload (s : State) (first last : Byte) (g : GlyphTable) : (s.attach first last g).payload = s.payload := rfl
@[simp] theorem State.attach_serialize (s : State) (first last : Byte) (g : GlyphTable) : (s.attach first last g).serialize = s.serialize := rfl
@[simp] theorem State.attach_lastSent (s : State) (first last : Byte) (g : GlyphTable) : (s.attach first last g).lastSent = s.lastSent := rfl

@[simp] theorem State.detach_buffer (s : State) : (s.detach).buffer = s.buffer := rfl
@[simp] theorem State.detach_dirty (s : State) : (s.detach).dirty = s.dirty := rfl
@[simp] theorem State.detach_fontAttached (s : State) : (s.detach).fontAttached = false := rfl
@[simp] theorem State.detach_startChar (s : State) : (s.detach).startChar = s.startChar := rfl
@[simp] theorem State.detach_endChar (s : State) : (s.detach).endChar = s.endChar := rfl
@[simp] theorem State.detach_glyphs (s : State) : (s.detach).glyphs = s.glyphs := rfl
@[simp] theorem State.detach_chan (s : State) : (s.detach).chan = s.chan := rfl
@[simp] theorem State.detach_diagLog (s : State) : (s.detach).diagLog = s.diagLog := rfl
@[simp] theorem State.detach_responses (s : State) : (s.detach).responses = s.responses := rfl
@[simp] theorem State.detach_answers (s : State) : (s.detach).answers = s.answers := rfl
@[simp] theorem State.detach_program (s : State) : (s.detach).program = s.program := rfl
@[simp] theorem State.detach_pc (s : State) : (s.detach).pc = s.pc := rfl
@[simp] theorem State.detach_fetch (s : State) : (s.detach).fetch = s.fetch := rfl
@[simp] theorem State.detach_payload (s : State) : (s.detach).payload = s.payload := rfl
@[simp] theorem State.detach_serialize (s : State) : (s.detach).serialize = s.serialize := rfl
@[simp] theorem State.detach_lastSent (s : State) : (s.detach).lastSent = s.lastSent := rfl

@[simp] theorem State.respond_buffer (s : State) (st : Status) (v : Nat) : (s.respond st v).buffer = s.buffer := rfl
@[simp] theorem State.respond_dirty (s : State) (st : Status) (v : Nat) : (s.respond st v).dirty = s.dirty := rfl
@[simp] theorem State.respond_fontAttached (s : State) (st : Status) (v : Nat) : (s.respond st v).fontAttached = s.fontAttached := rfl
@[simp] theorem State.respond_startChar (s : State) (st : Status) (v : Nat) : (s.respond st v).startChar = s.startChar := rfl
@[simp] theorem State.respond_endChar (s : State) (st : Status) (v : Nat) : (s.respond st v).endChar = s.endChar := rfl
@[simp] theorem State.respond_glyphs (s : State) (st : Status) (v : Nat) : (s.respond st v).glyphs = s.glyphs := rfl
@[simp] theorem State.respond_chan (s : State) (st : Status) (v : Nat) : (s.respond st v).chan = s.chan := rfl
@[simp] theorem State.respond_diagLog (s : State) (st : Status) (v : Nat) : (s.respond st v).diagLog = s.diagLog := rfl
@[simp] theorem State.respond_responses (s : State) (st : Status) (v : Nat) : (s.respond st v).responses = s.responses ++ [⟨st, v⟩] := rfl
@[simp] theorem State.respond_answers (s : State) (st : Status) (v : Nat) : (s.respond st v).answers = s.answers := rfl
@[simp] theorem State.respond_program (s : State) (st : Status) (v : Nat) : (s.respond st v).program = s.program := rfl
@[simp] theorem State.respond_pc (s : State) (st : Status) (v : Nat) : (s.respond st v).pc = s.pc := rfl
@[simp] theorem State.respond_fetch (s : State) (st : Status) (v : Nat) : (s.respond st v).fetch = s.fetch := rfl
@[simp] theorem State.respond_payload (s : State) (st : Status) (v : Nat) : (s.respond st v).payload = s.payload := rfl
@[simp] theorem State.respond_serialize (s : State) (st : Status) (v : Nat) : (s.respond st v).serialize = s.serialize := rfl
@[simp] theorem State.respond_lastSent (s : State) (st : Status) (v : Nat) : (s.respond st v).lastSent = s.lastSent := rfl

@[simp] theorem State.report_buffer (s : State) (es : List DiagEvent) : (s.report es).buffer = s.buffer := rfl
@[simp] theorem State.report_dirty (s : State) (es : List DiagEvent) : (s.report es).dirty = s.dirty := rfl
@[simp] theorem State.report_fontAttached (s : State) (es : List DiagEvent) : (s.report es).fontAttached = s.fontAttached := rfl
@[simp] theorem State.report_startChar (s : State) (es : List DiagEvent) : (s.report es).startChar = s.startChar := rfl
@[simp] theorem State.report_endChar (s : State) (es : List DiagEvent) : (s.report es).endChar = s.endChar := rfl
@[simp] theorem State.report_glyphs (s : State) (es : List DiagEvent) : (s.report es).glyphs = s.glyphs := rfl
@[simp] theorem State.report_chan (s : State) (es : List DiagEvent) : (s.report es).chan = s.chan := rfl
@[simp] theorem State.report_diagLog (s : State) (es : List DiagEvent) : (s.report es).diagLog = s.diagLog ++ es := rfl
@[simp] theorem State.report_responses (s : State) (es : List DiagEvent) : (s.report es).responses = s.responses := rfl
@[simp] theorem State.report_answers (s : State) (es : List DiagEvent) : (s.report es).answers = s.answers := rfl
@[simp] theorem State.report_program (s : State) (es : List DiagEvent) : (s.report es).program = s.program := rfl
@[simp] theorem State.report_pc (s : State) (es : List DiagEvent) : (s.report es).pc = s.pc := rfl
@[simp] theorem State.report_fetch (s : State) (es : List DiagEvent) : (s.report es).fetch = s.fetch := rfl
@[simp] theorem State.report_payload (s : State) (es : List DiagEvent) : (s.report es).payload = s.payload := rfl
@[simp] theorem State.report_serialize (s : State) (es : List DiagEvent) : (s.report es).serialize = s.serialize := rfl
@[simp] theorem State.report_lastSent (s : State) (es : List DiagEvent) : (s.report es).lastSent = s.lastSent := rfl

@[simp] theorem State.chanSend_buffer (s : State) (mode : ChanMode) (bs : List Byte) : (s.chanSend mode bs).buffer = s.buffer := rfl
@[simp] theorem State.chanSend_dirty (s : State) (mode : ChanMode) (bs : List Byte) : (s.chanSend mode bs).dirty = s.dirty := rfl
@[simp] theorem State.chanSend_fontAttached (s : State) (mode : ChanMode) (bs : List Byte) : (s.chanSend mode bs).fontAttached = s.fontAttached := rfl
@[simp] theorem State.chanSend_startChar (s : State) (mode : ChanMode) (bs : List Byte) : (s.chanSend mode bs).startChar = s.startChar := rfl
@[simp] theorem State.chanSend_endChar (s : State) (mode : ChanMode) (bs : List Byte) : (s.chanSend mode bs).endChar = s.endChar := rfl
@[simp] theorem State.chanSend_glyphs (s : State) (mode : ChanMode) (bs : List Byte) : (s.chanSend mode bs).glyphs = s.glyphs := rfl
@[simp] theorem State.chanSend_chan (s : State) (mode : ChanMode) (bs : List Byte) : (s.chanSend mode bs).chan = s.chan ++ [⟨mode, bs, s.nextAnswer⟩] := rfl
@[simp] theorem State.chanSend_diagLog (s : State) (mode : ChanMode) (bs : List Byte) : (s.chanSend mode bs).diagLog = s.diagLog := rfl
@[simp] theorem State.chanSend_responses (s : State) (mode : ChanMode) (bs : List Byte) : (s.chanSend mode bs).responses = s.responses := rfl
@[simp] theorem State.chanSend_answers (s : State) (mode : ChanMode) (bs : List Byte) : (s.chanSend mode bs).answers = s.answers.tail := rfl
@[simp] theorem State.chanSend_program (s : State) (mode : ChanMode) (bs : List Byte) : (s.chanSend mode bs).program = s.program := rfl
@[simp] theorem State.chanSend_pc (s : State) (mode : ChanMode) (bs : List Byte) : (s.chanSend mode bs).pc = s.pc := rfl
@[simp] theorem State.chanSend_fetch (s : State) (mode : ChanMode) (bs : List Byte) : (s.chanSend mode bs).fetch = s.fetch := rfl
@[simp] theorem State.chanSend_payload (s : State) (mode : ChanMode) (bs : List Byte) : (s.chanSend mode bs).payload = s.payload := rfl
@[simp] theorem State.chanSend_serialize (s : State) (mode : ChanMode) (bs : List Byte) : (s.chanSend mode bs).serialize = s.serialize := rfl

@[simp] theorem State.advance_buffer (s : State) : (s.advance).buffer = s.buffer := rfl
@[simp] theorem State.advance_dirty (s : State) : (s.advance).dirty = s.dirty := rfl
@[simp] theorem State.advance_fontAttached (s : State) : (s.advance).fontAttached = s.fontAttached := rfl
@[simp] theorem State.advance_startChar (s : State) : (s.advance).startChar = s.startChar := rfl
@[simp] theorem State.advance_endChar (s : State) : (s.advance).endChar = s.endChar := rfl
@[simp] theorem State.advance_glyphs (s : State) : (s.advance).glyphs = s.glyphs := rfl
@[simp] theorem State.advance_chan (s : State) : (s.advance).chan = s.chan := rfl
@[simp] theorem State.advance_diagLog (s : State) : (s.advance).diagLog = s.diagLog := rfl
@[simp] theorem State.advance_responses (s : State) : (s.advance).responses = s.responses := rfl
@[simp] theorem State.advance_answers (s : State) : (s.advance).answers = s.answers := rfl
@[simp] theorem State.advance_program (s : State) : (s.advance).program = s.program := rfl
@[simp] theorem State.advance_pc (s : State) : (s.advance).pc = s.pc + 1 := rfl
@[simp] theorem State.advance_serialize (s : State) : (s.advance).serialize = s.serialize := rfl
@[simp] theorem State.advance_lastSent (s : State) : (s.advance).lastSent = s.lastSent := rfl

/-! ## Reset, for either value of RESET_DIRTY (D23) -/

@[simp] theorem State.resetWith_buffer (d : Bool) : (State.resetWith d).buffer = [] := rfl
@[simp] theorem State.resetWith_dirty (d : Bool) : (State.resetWith d).dirty = d := rfl
@[simp] theorem State.resetWith_fontAttached (d : Bool) : (State.resetWith d).fontAttached = false := rfl
@[simp] theorem State.resetWith_startChar (d : Bool) : (State.resetWith d).startChar = 0#8 := rfl
@[simp] theorem State.resetWith_endChar (d : Bool) : (State.resetWith d).endChar = 0#8 := rfl
@[simp] theorem State.resetWith_glyphs (d : Bool) : (State.resetWith d).glyphs = [] := rfl
@[simp] theorem State.resetWith_chan (d : Bool) : (State.resetWith d).chan = [] := rfl
@[simp] theorem State.resetWith_diagLog (d : Bool) : (State.resetWith d).diagLog = [] := rfl
@[simp] theorem State.resetWith_responses (d : Bool) : (State.resetWith d).responses = [] := rfl
@[simp] theorem State.resetWith_answers (d : Bool) : (State.resetWith d).answers = [] := rfl
@[simp] theorem State.resetWith_program (d : Bool) : (State.resetWith d).program = [] := rfl
@[simp] theorem State.resetWith_pc (d : Bool) : (State.resetWith d).pc = 0 := rfl

/-! ## Sequencing -/

@[simp] theorem andThen_next (s : State) (k : State → Result) : andThen (.next s) k = k s := rfl
@[simp] theorem andThen_fault (r : Fault) (k : State → Result) : andThen (.fault r) k = .fault r := rfl
@[simp] theorem andThen_refused (r : Refusal) (k : State → Result) : andThen (.refused r) k = .refused r := rfl

/-- A sequence answers a next state iff both parts do. -/
theorem andThen_eq_next {o : Result} {k : State → Result} {t : State} :
    andThen o k = .next t ↔ ∃ s, o = .next s ∧ k s = .next t := by
  cases o <;> simp

/-- A sequence faults iff one of its parts does. -/
theorem andThen_eq_fault {o : Result} {k : State → Result} {r : Fault} :
    andThen o k = .fault r ↔ o = .fault r ∨ ∃ s, o = .next s ∧ k s = .fault r := by
  cases o <;> simp

/-- A sequence is refused iff one of its parts is. -/
theorem andThen_eq_refused {o : Result} {k : State → Result} {r : Refusal} :
    andThen o k = .refused r ↔ o = .refused r ∨ ∃ s, o = .next s ∧ k s = .refused r := by
  cases o <;> simp

end Sys2Proof.Machine
end

