-- ==== Sys2Proof/Laws/Ops.lean ====
section
/-!
SUPPORT. Sys2Proof/Laws/Ops.lean: one lemma per shared operation that says all it can do: when it goes on, and with what;
when it faults; when it refuses.
-/

namespace Sys2Proof.Machine

/-! ## The bounds-checked accessors -/

/-- A load that stays in the Buffer goes on with the cells. -/
theorem State.load_eq (s : State) {a n : Nat} (k : List Byte → Result) (h : n = 0 ∨ a + n ≤ Config.bufferCount) :
    s.load a n k = k (s.buffer.readRun a n) := by
  simp only [State.load, if_pos h]

/-- A load goes on iff it stays in the Buffer. -/
theorem State.load_eq_next {s t : State} {a n : Nat} {k : List Byte → Result} :
    s.load a n k = .next t ↔ (n = 0 ∨ a + n ≤ Config.bufferCount) ∧ k (s.buffer.readRun a n) = .next t := by
  unfold State.load; split <;> simp_all

/-- A store that stays in the Buffer changes the Buffer and nothing else. -/
theorem State.store_eq (s : State) {a : Nat} {bs : List Byte} (h : bs = [] ∨ a + bs.length ≤ Config.bufferCount) :
    s.store a bs = .next (s.setBuffer (s.buffer.writeRun a bs)) := by
  simp only [State.store, if_pos h]

/-- A store goes on iff it stays in the Buffer, and then only the Buffer changes. -/
theorem State.store_eq_next {s t : State} {a : Nat} {bs : List Byte} :
    s.store a bs = .next t ↔
      (bs = [] ∨ a + bs.length ≤ Config.bufferCount) ∧ t = s.setBuffer (s.buffer.writeRun a bs) := by
  unfold State.store; split <;> simp_all [eq_comm]

/-! ## Responses and errors -/

theorem State.done_eq (s : State) : s.done = .next (s.respond .ok 0) := rfl

theorem State.drawn_eq (s : State) : s.drawn = .next (s.markDirty.respond .ok 0) := rfl

theorem State.raise_eq (s : State) (e : ErrorCause) :
    s.raise e = .next ((s.report e.events).respond e.status 0) := rfl

/-! ## The command port -/

theorem State.expectNone_eq {s : State} (o : Result) (h : s.payload = .absent) : s.expectNone o = o := by
  simp [State.expectNone, h]

theorem State.expectNone_stray {s : State} (o : Result) (h : s.payload ≠ .absent) :
    s.expectNone o = .refused .strayPayload := by
  unfold State.expectNone; split <;> simp_all

/-- A command without payload goes on iff none is presented. -/
theorem State.expectNone_eq_next {s t : State} {o : Result} :
    s.expectNone o = .next t ↔ s.payload = .absent ∧ o = .next t := by
  unfold State.expectNone; split <;> simp_all

theorem State.expectNone_eq_fault {s : State} {o : Result} {r : Fault} :
    s.expectNone o = .fault r ↔ s.payload = .absent ∧ o = .fault r := by
  unfold State.expectNone; split <;> simp_all

theorem State.expectBlob_eq {s : State} {bytes : List Byte} (k : List Byte → Result)
    (h : s.payload = .blob bytes) (hl : bytes.length = Config.bufferCount) : s.expectBlob k = k bytes := by
  simp [State.expectBlob, h, blobWf, hl]

/-- LOAD_IMAGE goes on iff a blob of 1056 bytes is presented. -/
theorem State.expectBlob_eq_next {s t : State} {k : List Byte → Result} :
    s.expectBlob k = .next t ↔
      ∃ bytes, s.payload = .blob bytes ∧ bytes.length = Config.bufferCount ∧ k bytes = .next t := by
  unfold State.expectBlob; split
  · rename_i bytes hb
    by_cases hl : bytes.length = Config.bufferCount <;> simp [blobWf, hl, hb]
  · rename_i hb; simp; intro x hx; exact absurd hx (hb x)

theorem State.expectBlob_eq_fault {s : State} {k : List Byte → Result} {r : Fault} :
    s.expectBlob k = .fault r ↔
      ∃ bytes, s.payload = .blob bytes ∧ bytes.length = Config.bufferCount ∧ k bytes = .fault r := by
  unfold State.expectBlob; split
  · rename_i bytes hb
    by_cases hl : bytes.length = Config.bufferCount <;> simp [blobWf, hl, hb]
  · rename_i hb; simp; intro x hx; exact absurd hx (hb x)

theorem State.expectMessage_eq {s : State} {len : Len} {chars : List Byte} (k : List Byte → Result)
    (h : s.payload = .message chars) (hl : chars.length = len.toNat) : s.expectMessage len k = k chars := by
  simp [State.expectMessage, h, messageWf, hl]

/-- DRAW_TEXT goes on iff a message of `len` characters is presented. -/
theorem State.expectMessage_eq_next {s t : State} {len : Len} {k : List Byte → Result} :
    s.expectMessage len k = .next t ↔
      ∃ chars, s.payload = .message chars ∧ chars.length = len.toNat ∧ k chars = .next t := by
  unfold State.expectMessage; split
  · rename_i chars hb
    by_cases hl : chars.length = len.toNat <;> simp [messageWf, hl, hb]
  · rename_i hb; simp; intro x hx; exact absurd hx (hb x)

theorem State.expectMessage_eq_fault {s : State} {len : Len} {k : List Byte → Result} {r : Fault} :
    s.expectMessage len k = .fault r ↔
      ∃ chars, s.payload = .message chars ∧ chars.length = len.toNat ∧ k chars = .fault r := by
  unfold State.expectMessage; split
  · rename_i chars hb
    by_cases hl : chars.length = len.toNat <;> simp [messageWf, hl, hb]
  · rename_i hb; simp; intro x hx; exact absurd hx (hb x)

theorem State.expectTable_eq {s : State} {first last : Byte} {g : GlyphTable} (k : GlyphTable → Result)
    (h : s.payload = .table g) (hw : tableWf first last g = true) : s.expectTable first last k = k g := by
  simp [State.expectTable, h, hw]

/-- ATTACH_FONT goes on iff a table that is well-formed for the range is presented. -/
theorem State.expectTable_eq_next {s t : State} {first last : Byte} {k : GlyphTable → Result} :
    s.expectTable first last k = .next t ↔
      ∃ g, s.payload = .table g ∧ tableWf first last g = true ∧ k g = .next t := by
  unfold State.expectTable; split
  · rename_i g hb
    by_cases hw : tableWf first last g = true <;> simp [hw, hb]
  · rename_i hb; simp; intro x hx; exact absurd hx (hb x)

theorem State.expectTable_eq_fault {s : State} {first last : Byte} {k : GlyphTable → Result} {r : Fault} :
    s.expectTable first last k = .fault r ↔
      ∃ g, s.payload = .table g ∧ tableWf first last g = true ∧ k g = .fault r := by
  unfold State.expectTable; split
  · rename_i g hb
    by_cases hw : tableWf first last g = true <;> simp [hw, hb]
  · rename_i hb; simp; intro x hx; exact absurd hx (hb x)

/-- A text command goes on iff the attached table is well-formed for its range. -/
theorem State.withTable_eq_next {s t : State} {o : Result} :
    s.withTable o = .next t ↔ tableWf s.startChar s.endChar s.glyphs = true ∧ o = .next t := by
  unfold State.withTable; split <;> simp_all

theorem State.withTable_eq {s : State} (o : Result) (h : tableWf s.startChar s.endChar s.glyphs = true) :
    s.withTable o = o := by
  simp [State.withTable, h]

theorem State.withTable_eq_fault {s : State} {o : Result} {r : Fault} :
    s.withTable o = .fault r ↔ tableWf s.startChar s.endChar s.glyphs = true ∧ o = .fault r := by
  unfold State.withTable; split <;> simp_all

/-! ## The host's command list -/

/-- A command placed at the index is the one fetched. -/
theorem State.present_fetch (s : State) (c : HostCommand) : (s.present c).fetch = some c := by
  unfold State.fetch State.present
  rw [List.getElem?_append_right (by simp; omega)]
  simp only [List.length_append, List.length_take, List.length_replicate]
  rw [show s.pc - (min s.pc s.program.length + (s.pc - s.program.length)) = 0 by omega]
  rfl

@[simp] theorem Transaction.taken_ok (mode : ChanMode) (bytes : List Byte) :
    Transaction.taken ⟨mode, bytes, .ok⟩ = bytes := rfl

@[simp] theorem Transaction.taken_fail (mode : ChanMode) (bytes : List Byte) (n : Fin 1057) :
    Transaction.taken ⟨mode, bytes, .fail n⟩ = bytes.take n.val := rfl

/-- Whatever the answer, the channel took a prefix of the bytes (R183). -/
theorem Transaction.taken_prefix (t : Transaction) : t.taken <+: t.bytes := by
  unfold Transaction.taken; split
  · exact List.prefix_refl _
  · exact List.take_prefix _ _

/-- After a command the index is one more, and nothing else is touched. -/
theorem finish_eq_next {o : Result} {t : State} : finish o = .next t ↔ ∃ u, o = .next u ∧ t = u.advance := by
  unfold finish; rw [andThen_eq_next]; simp [eq_comm]

theorem step_none {s : State} (h : s.fetch = none) : step s = .next s := by
  simp [step, h, State.wait]

/-- What a step that answers a next state did: it waited, performed a command, or reported an illegal one. -/
theorem step_next_cases {s t : State} (h : step s = .next t) :
    (s.fetch = none ∧ t = s) ∨
    (∃ c i u, s.fetch = some c ∧ decode c.word = .command i ∧ exec i s = .next u ∧ t = u.advance) ∨
    (∃ c op u, s.fetch = some c ∧ decode c.word = .illegal op ∧ s.illegal op = .next u ∧ t = u.advance) := by
  unfold step at h
  split at h
  · rename_i hf
    simp only [State.wait, Host.Outcome.next.injEq] at h
    exact .inl ⟨hf, h.symm⟩
  · rename_i c hf
    split at h
    · rename_i i hd
      obtain ⟨u, hu, ht⟩ := finish_eq_next.mp h
      exact .inr (.inl ⟨c, i, u, hf, hd, hu, ht⟩)
    · rename_i op hd
      obtain ⟨u, hu, ht⟩ := finish_eq_next.mp h
      exact .inr (.inr ⟨c, op, u, hf, hd, hu, ht⟩)

end Sys2Proof.Machine
end

