-- ==== Sys2Proof/Laws/Exec.lean ====
section
/-!
SUPPORT. Sys2Proof/Laws/Exec.lean: what a command that answers a next state did, said once (`Effect`, `exec_effect`), so
that a rule about every command is proved by cases on it and no proof unfolds the meanings again.
-/

namespace Sys2Proof.Machine

/-- The effects of the ten commands on a state: one constructor per way a command can end in a next state. -/
inductive Effect : Instr → State → State → Prop where
  | clear {s} (hp : s.payload = .absent) :
    Effect .clear s ((s.setBuffer (s.buffer.writeRun 0 (List.replicate Config.bufferCount 0#8))).markDirty.respond .ok 0)
  | clearRow {s row} (hp : s.payload = .absent) (hr : row.toNat < 8) :
    Effect (.clearRow row) s
      ((s.setBuffer (s.buffer.writeRun (132 * row.toNat) (List.replicate spanWidth 0#8))).markDirty.respond .ok 0)
  | clearRowRange {s row} (hp : s.payload = .absent) (hr : 8 ≤ row.toNat) :
    Effect (.clearRow row) s ((s.report [.rowRange row]).respond .errRange 0)
  | loadImage {s blob} (hp : s.payload = .blob blob) (hl : blob.length = Config.bufferCount) :
    Effect .loadImage s ((s.setBuffer (s.buffer.writeRun 0 blob)).markDirty.respond .ok 0)
  | drawHline {s y} (hp : s.payload = .absent) (hy : y.toNat < 64) :
    Effect (.drawHline y) s ((s.setBuffer (s.buffer.writeRun (132 * (y.toNat / 8))
      ((s.buffer.readRun (132 * (y.toNat / 8)) spanWidth).map (· ||| bitMask y.toNat)))).markDirty.respond .ok 0)
  | drawHlineRange {s y} (hp : s.payload = .absent) (hy : 64 ≤ y.toNat) :
    Effect (.drawHline y) s ((s.report [.yRange y]).respond .errRange 0)
  | textNoFont {s row len chars} (hp : s.payload = .message chars) (hl : chars.length = len.toNat)
      (hf : s.fontAttached = false) :
    Effect (.drawText row len) s (s.respond .ok 0)
  | text {s row len chars} (hp : s.payload = .message chars) (hl : chars.length = len.toNat)
      (hf : s.fontAttached = true) (hw : tableWf s.startChar s.endChar s.glyphs = true) :
    Effect (.drawText row len) s (((s.setBuffer (s.buffer.writeRun (132 * clampRow row)
      ((textColumns s chars).take 128))).report (textEvents s chars)).markDirty.respond .ok 0)
  | charNothing {s code x row} (hp : s.payload = .absent)
      (hn : s.fontAttached = false ∨ mapped s code = false) :
    Effect (.drawChar code x row) s (s.respond .ok 0)
  | char {s code x row} (hp : s.payload = .absent) (hf : s.fontAttached = true) (hm : mapped s code = true)
      (hw : tableWf s.startChar s.endChar s.glyphs = true) :
    Effect (.drawChar code x row) s ((s.setBuffer (s.buffer.writeRun (132 * clampRow row + x.toNat)
      ((glyphColumns s code).take (128 - x.toNat)))).markDirty.respond .ok 0)
  | flushClean {s} (hp : s.payload = .absent) (hd : s.dirty = false) : Effect .flush s (s.respond .ok 0)
  | flushOk {s} (hp : s.payload = .absent) (hd : s.dirty = true) (ha : s.nextAnswer = .ok) :
    Effect .flush s ((s.chanSend .data s.serialize).clearDirty.respond .ok 0)
  | flushFail {s n} (hp : s.payload = .absent) (hd : s.dirty = true) (ha : s.nextAnswer = .fail n) :
    Effect .flush s (((s.chanSend .data s.serialize).report []).respond .errTx 0)
  | attachFont {s first last g} (hp : s.payload = .table g) (hw : tableWf first last g = true) :
    Effect (.attachFont first last) s ((s.attach first last g).respond .ok 0)
  | detachFont {s} (hp : s.payload = .absent) : Effect .detachFont s (s.detach.respond .ok 0)
  | readPixel {s x y} (hp : s.payload = .absent) (hx : x.toNat < 128) (hy : y.toNat < 64) :
    Effect (.readPixel x y) s
      (s.respond .ok (((s.buffer.read (132 * (y.toNat / 8) + x.toNat)).toNat >>> (y.toNat % 8)) % 2))
  | readPixelRange {s x y} (hp : s.payload = .absent) (h : 128 ≤ x.toNat ∨ 64 ≤ y.toNat) :
    Effect (.readPixel x y) s ((s.report [.pixelRange x y]).respond .errRange 0)

/-- A store followed by the end of a drawing command. -/
theorem store_drawn_next {s t : State} {a : Nat} {bs : List Byte} (h : andThen (s.store a bs) State.drawn = .next t) :
    t = (s.setBuffer (s.buffer.writeRun a bs)).markDirty.respond .ok 0 := by
  obtain ⟨u, hu, hd⟩ := andThen_eq_next.mp h
  obtain ⟨-, rfl⟩ := State.store_eq_next.mp hu
  rw [State.drawn_eq] at hd
  exact (Host.Outcome.next.inj hd).symm

/-- Every command that answers a next state had one of the effects. -/
theorem exec_effect {i : Instr} {s t : State} (h : exec i s = .next t) : Effect i s t := by
  cases i with
  | clear =>
    obtain ⟨hp, h⟩ := State.expectNone_eq_next.mp h
    rw [store_drawn_next h]
    exact .clear hp
  | clearRow row =>
    obtain ⟨hp, h⟩ := State.expectNone_eq_next.mp h
    by_cases hr : Config.pageCount ≤ row.toNat
    · rw [if_pos hr, State.raise_eq] at h
      cases h; exact .clearRowRange hp hr
    · rw [if_neg hr, cellAt_eq] at h
      rw [store_drawn_next h]
      exact .clearRow hp (Nat.lt_of_not_le hr)
  | loadImage =>
    obtain ⟨blob, hp, hl, h⟩ := State.expectBlob_eq_next.mp h
    rw [store_drawn_next h]
    exact .loadImage hp hl
  | drawHline y =>
    obtain ⟨hp, h⟩ := State.expectNone_eq_next.mp h
    by_cases hy : Config.pixelHeight ≤ y.toNat
    · rw [if_pos hy, State.raise_eq] at h
      cases h; exact .drawHlineRange hp hy
    · have hp8 : linePage y.toNat = y.toNat / 8 := by
        simp only [linePage, Config.pixInPage, Config.pixelHeight]; omega
      rw [if_neg hy, cellAt_eq, hp8] at h
      rw [store_drawn_next (State.load_eq_next.mp h).2]
      exact .drawHline hp (Nat.lt_of_not_le hy)
  | drawText row len =>
    obtain ⟨chars, hp, hl, h⟩ := State.expectMessage_eq_next.mp h
    by_cases hf : s.fontAttached = true
    · rw [if_pos hf] at h
      obtain ⟨hw, h⟩ := State.withTable_eq_next.mp h
      obtain ⟨u, hu, hd⟩ := andThen_eq_next.mp h
      obtain ⟨-, rfl⟩ := State.store_eq_next.mp hu
      rw [rowEnd_eq, Nat.add_sub_cancel_left, rowBase_eq, State.drawn_eq] at hd
      cases hd; exact .text hp hl hf hw
    · rw [if_neg hf, State.done_eq] at h
      cases h; exact .textNoFont hp hl (by simpa using hf)
  | drawChar code x row =>
    obtain ⟨hp, h⟩ := State.expectNone_eq_next.mp h
    by_cases hc : (s.fontAttached && mapped s code) = true
    · rw [if_pos hc] at h
      obtain ⟨hf, hm⟩ := Bool.and_eq_true_iff.mp hc
      obtain ⟨hw, h⟩ := State.withTable_eq_next.mp h
      rw [rowEnd_eq, Nat.add_sub_add_left, rowBase_eq] at h
      rw [store_drawn_next h]
      exact .char hp hf hm hw
    · rw [if_neg hc, State.done_eq] at h
      cases h
      exact .charNothing hp (by simpa [Bool.and_eq_true, ← Bool.not_eq_true, imp_iff_not_or] using hc)
  | flush =>
    obtain ⟨hp, h⟩ := State.expectNone_eq_next.mp h
    by_cases hd : s.dirty = true
    · rw [if_pos hd] at h
      obtain ⟨-, h⟩ := State.load_eq_next.mp h
      split at h
      · rename_i ha
        rw [State.done_eq] at h
        cases h; exact .flushOk hp hd ha
      · rename_i n ha
        rw [State.raise_eq] at h
        cases h; exact .flushFail hp hd ha
    · rw [if_neg hd, State.done_eq] at h
      cases h; exact .flushClean hp (by simpa using hd)
  | attachFont first last =>
    obtain ⟨g, hp, hw, h⟩ := State.expectTable_eq_next.mp h
    rw [State.done_eq] at h
    cases h; exact .attachFont hp hw
  | detachFont =>
    obtain ⟨hp, h⟩ := State.expectNone_eq_next.mp h
    rw [State.done_eq] at h
    cases h; exact .detachFont hp
  | readPixel x y =>
    obtain ⟨hp, h⟩ := State.expectNone_eq_next.mp h
    by_cases hr : Config.pixelWidth ≤ x.toNat ∨ Config.pixelHeight ≤ y.toNat
    · rw [if_pos hr, State.raise_eq] at h
      cases h; exact .readPixelRange hp hr
    · rw [if_neg hr, cellIndex_eq, bitIndex_eq] at h
      obtain ⟨-, h⟩ := State.load_eq_next.mp h
      cases h
      rw [not_or, Nat.not_le, Nat.not_le] at hr
      exact .readPixel hp hr.1 hr.2

/-- The illegal command that answers a next state reported itself and did nothing else (R206). -/
theorem illegal_effect {op : Byte} {s t : State} (h : s.illegal op = .next t) :
    s.payload = .absent ∧ t = (s.report [.illegalCommand op]).respond .errIllegal 0 := by
  obtain ⟨hp, h⟩ := State.expectNone_eq_next.mp h
  rw [State.raise_eq] at h
  cases h; exact ⟨hp, rfl⟩

end Sys2Proof.Machine
end

