-- ==== Sys2Proof/Laws/PerInstr.lean ====
section
/-!
SUPPORT. Sys2Proof/Laws/PerInstr.lean: the per-instruction family TableRow: the word of every command matches the row of
R82's opcode map that bears its mnemonic.
-/

namespace Sys2Proof.Laws.TableRow

/-- The command's word matches the row of its mnemonic (R82). -/
def Statement (i : Instr) : Prop :=
  ∃ row ∈ opcodeTable, row.mnemonic = i.mnemonic ∧ encode i &&& row.mask = row.pattern

/-- A word packed with opcode `op` matches the pattern `op·2^24`. -/
theorem pack_matches (op a b c : Byte) :
    pack op a b c &&& 0xFF000000#32 = BitVec.ofNat 32 (op.toNat * 2 ^ 24) :=
  (and_opMask_iff _ _ op.isLt).mpr (by rw [opField_pack])

theorem clear : Statement .clear := ⟨opcodeTable[0], by simp [opcodeTable], rfl, pack_matches 0x01 _ _ _⟩
theorem clearRow (row : Byte) : Statement (.clearRow row) :=
  ⟨opcodeTable[1], by simp [opcodeTable], rfl, pack_matches 0x02 _ _ _⟩
theorem loadImage : Statement .loadImage := ⟨opcodeTable[2], by simp [opcodeTable], rfl, pack_matches 0x03 _ _ _⟩
theorem drawHline (y : Byte) : Statement (.drawHline y) :=
  ⟨opcodeTable[3], by simp [opcodeTable], rfl, pack_matches 0x04 _ _ _⟩
theorem drawText (row : Byte) (len : Len) : Statement (.drawText row len) :=
  ⟨opcodeTable[4], by simp [opcodeTable], rfl, pack_matches 0x05 _ _ _⟩
theorem drawChar (code x row : Byte) : Statement (.drawChar code x row) :=
  ⟨opcodeTable[5], by simp [opcodeTable], rfl, pack_matches 0x06 _ _ _⟩
theorem flush : Statement .flush := ⟨opcodeTable[6], by simp [opcodeTable], rfl, pack_matches 0x07 _ _ _⟩
theorem attachFont (first last : Byte) : Statement (.attachFont first last) :=
  ⟨opcodeTable[7], by simp [opcodeTable], rfl, pack_matches 0x08 _ _ _⟩
theorem detachFont : Statement .detachFont := ⟨opcodeTable[8], by simp [opcodeTable], rfl, pack_matches 0x09 _ _ _⟩
theorem readPixel (x y : Byte) : Statement (.readPixel x y) :=
  ⟨opcodeTable[9], by simp [opcodeTable], rfl, pack_matches 0x0A _ _ _⟩

end Sys2Proof.Laws.TableRow
end

