-- ==== Sys2Proof/Tests/Slice0.lean ====
section
/-!
SUPPORT. Sys2Proof/Tests/Slice0.lean: the model's own tests. Expected results are those of spec/95_test_vectors.md or are
worked out by hand from the rule named; the witnesses at the end show states that meet the hypotheses of the obligations.
-/

namespace Sys2Proof.Tests

open Machine

/-! ## Helpers -/

/-- The spec's example font T (95_test_vectors.md): 'A', 'B', 'C'. -/
def fontT : GlyphTable := [[3, 0x1F, 0x05, 0x1F], [3, 0x1F, 0x15, 0x0A], [2, 0x0E, 0x11]]

/-- A small state: a few cells, one presented command. -/
def st (cells : Memory) (dirty : Bool) (w : CommandWord) (p : Payload) : State :=
  { State.reset with buffer := cells, dirty := dirty, program := [⟨w, p⟩] }

/-- The same with font T attached. -/
def stT (cells : Memory) (dirty : Bool) (w : CommandWord) (p : Payload) : State :=
  { st cells dirty w p with fontAttached := true, startChar := 0x41, endChar := 0x43, glyphs := fontT }

/-- `n` cells from `a` on after a step. -/
def cellsAfter (r : Result) (a n : Nat) : Option (List Byte) :=
  match r with
  | .next s => some (s.buffer.readRun a n)
  | _ => none

/-- Dirty, the events and the responses after a step. -/
def seenAfter (r : Result) : Option (Bool × List DiagEvent × List Response) :=
  match r with
  | .next s => some (s.dirty, s.diagLog, s.responses)
  | _ => none

/-- Why a step was refused. -/
def refusal (r : Result) : Option Refusal :=
  match r with
  | .refused q => some q
  | _ => none

/-- A step answers a next state with the property `p`. -/
def nextWith (r : Result) (p : State → Bool) : Bool :=
  match r with
  | .next t => p t
  | _ => false

/-- So there is such a next state. -/
theorem exists_next {r : Result} {p : State → Bool} (h : nextWith r p = true) : ∃ t, r = .next t ∧ p t = true := by
  cases r with
  | next t => exact ⟨t, rfl, h⟩
  | fault _ => exact absurd h Bool.false_ne_true
  | refused _ => exact absurd h Bool.false_ne_true

/-! ## Well-formedness: an ill-formed term for each check -/

/-- U1: a short blob, and a long one. -/
theorem test_blob_length : blobWf [] = false ∧ blobWf (List.replicate 1057 0) = false ∧
    blobWf (List.replicate 1056 0) = true := by decide +kernel

/-- U1: a message must have exactly `len` characters. -/
theorem test_message_length : messageWf 2 [0x41] = false ∧ messageWf 1 [0x41] = true ∧ messageWf 0 [] = true := by
  decide

/-- R150: an entry is its width byte and exactly that many columns; a width of 0 is an entry. -/
theorem test_entry : entryWf [] = false ∧ entryWf [3, 1, 2] = false ∧ entryWf [1, 1, 2] = false ∧ entryWf [0] = true := by
  decide

/-- R151: a table has one entry per code of its range, each well-formed; an empty range needs none. -/
theorem test_table : tableWf 0x41 0x43 fontT = true ∧ tableWf 0x41 0x44 fontT = false ∧
    tableWf 0x41 0x41 [[2, 1]] = false ∧ tableWf 0x50 0x40 [] = true ∧ tableWf 0x50 0x40 [[]] = false := by decide

/-- R87: a payload with a command that takes none, and none with one that takes one. -/
theorem test_payload : Instr.clear.payloadWf (.blob []) = false ∧ Instr.loadImage.payloadWf .absent = false ∧
    (Instr.drawText 0 1).payloadWf (.table []) = false ∧ (Instr.attachFont 1 0).payloadWf (.table []) = true ∧
    Instr.flush.payloadWf .absent = true := by decide

/-- The canonical form of the Buffer: rising addresses, no zero cell, no cell past 1055. -/
theorem test_memory_form : ¬ Memory.wf [(2, 1), (1, 1)] ∧ ¬ Memory.wf [(1, 0)] ∧ ¬ Memory.wf [(1056, 1)] ∧
    Memory.wf [(1, 1), (1055, 2)] := by decide

/-! ## Decoding: words written out bit by bit from R81 and R82 -/

theorem test_decode_clear : decode 0b00000001000000000000000000000000 = .command .clear := by decide
theorem test_decode_clearRow : decode 0b00000010000001110000000000000000 = .command (.clearRow 7) := by decide
theorem test_decode_loadImage : decode 0b00000011000000000000000000000000 = .command .loadImage := by decide
theorem test_decode_drawHline : decode 0b00000100001111110000000000000000 = .command (.drawHline 63) := by decide
theorem test_decode_drawText : decode 0b00000101000000100000000100000011 = .command (.drawText 2 259) := by decide
theorem test_decode_drawChar : decode 0b00000110010000010000101000000010 = .command (.drawChar 0x41 10 2) := by decide
theorem test_decode_flush : decode 0b00000111000100100000000000000000 = .command .flush := by decide
theorem test_decode_attachFont : decode 0b00001000010000010100001100000000 = .command (.attachFont 0x41 0x43) := by
  decide
theorem test_decode_detachFont : decode 0b00001001000000000000000000000000 = .command .detachFont := by decide
theorem test_decode_readPixel : decode 0b00001010000001010000101011111111 = .command (.readPixel 5 10) := by decide
theorem test_decode_reserved : decode 0 = .illegal 0 ∧ decode 0x0B000000 = .illegal 0x0B ∧
    decode 0xFF123456 = .illegal 0xFF := by decide

/-- The host's hook reads the same words, and none from a reserved one. -/
theorem test_decodeTableWord : decodeTableWord 32 0x05020103 = some (.drawText 2 259) := by decide
theorem test_decodeTableWord_reserved : decodeTableWord 32 0 = none := by decide

/-- No two rows of the opcode map match one word (R87). -/
theorem test_opcode_rows_disjoint : opcodeTable.Pairwise fun r q => r.pattern &&& q.mask ≠ q.pattern := by decide

/-! ## One step per command -/

/-- Vector 2.3: CLEAR of an empty Buffer still marks dirty; a padding cell is cleared. -/
theorem test_clear : cellsAfter (step (st [(5, 0xA5), (131, 0xFF)] false 0x01000000 .absent)) 131 1 = some [0] ∧
    seenAfter (step (st [] false 0x01000000 .absent)) = some (true, [], [⟨.ok, 0⟩]) := by decide +kernel

/-- Vector 2.3: CLEAR_ROW 7 clears cell 1052 and leaves 1053 and 923. -/
theorem test_clearRow :
    cellsAfter (step (st [(923, 0xFF), (1052, 0xFF), (1053, 0xFF)] false 0x02070000 .absent)) 1052 2 = some [0, 0xFF] ∧
    cellsAfter (step (st [(923, 0xFF), (1052, 0xFF), (1053, 0xFF)] false 0x02070000 .absent)) 923 2 = some [0xFF, 0] := by
  decide +kernel

/-- S6: CLEAR_ROW 8 performs no mutation, does not set Dirty, and is reported. -/
theorem test_clearRow_range : cellsAfter (step (st [(924, 0xFF)] false 0x02080000 .absent)) 924 1 = some [0xFF] ∧
    seenAfter (step (st [(924, 0xFF)] false 0x02080000 .absent)) =
      some (false, [.rowRange 8], [⟨.errRange, 0⟩]) := by decide

/-- R113: the last byte of the blob goes to cell 1055, a padding cell. -/
theorem test_loadImage :
    cellsAfter (step (st [(7, 1)] false 0x03000000 (.blob (List.replicate 1055 0 ++ [0x1F])))) 1054 2 = some [0, 0x1F] ∧
    cellsAfter (step (st [(7, 1)] false 0x03000000 (.blob (List.replicate 1055 0 ++ [0x1F])))) 7 1 = some [0] := by
  decide +kernel

/-- U1: a blob of 1055 bytes is refused. -/
theorem test_loadImage_short :
    refusal (step (st [] false 0x03000000 (.blob (List.replicate 1055 0)))) = some .blobLength := by decide +kernel

/-- Vector 2.4: line 10 over line 9 leaves 0x06; column 128 (cell 260) is written, column 129 is not. -/
theorem test_drawHline : cellsAfter (step (st [(132, 0x02)] false 0x040A0000 .absent)) 131 2 = some [0, 0x06] ∧
    cellsAfter (step (st [(132, 0x02)] false 0x040A0000 .absent)) 260 2 = some [0x04, 0] := by decide +kernel

/-- Vector 2.4: y = 64 is reported and changes nothing. -/
theorem test_drawHline_range :
    seenAfter (step (st [] false 0x04400000 .absent)) = some (false, [.yRange 64], [⟨.errRange, 0⟩]) := by decide

/-- Vector 2.6: `DRAW_TEXT "A?C", 2`. -/
theorem test_drawText :
    cellsAfter (step (stT [(276, 0xAA)] false 0x05020003 (.message [0x41, 0x3F, 0x43]))) 264 13 =
      some [0x1F, 0x05, 0x1F, 0, 0, 0, 0, 0, 0, 0x0E, 0x11, 0, 0xAA] ∧
    seenAfter (step (stT [] false 0x05020003 (.message [0x41, 0x3F, 0x43]))) =
      some (true, [.unmappedGlyph 0x3F], [⟨.ok, 0⟩]) := by decide

/-- Vector 2.6: the 26th unmapped character is cut at column 127, cell 128 keeps its value; all 26 are reported. -/
theorem test_drawText_row_end :
    cellsAfter (step (stT [(127, 0xAA), (128, 0xAA)] false 0x0500001A (.message (List.replicate 26 0x3F)))) 127 2 =
      some [0, 0xAA] ∧
    seenAfter (step (stT [] false 0x0500001A (.message (List.replicate 26 0x3F)))) =
      some (true, List.replicate 26 (.unmappedGlyph 0x3F), [⟨.ok, 0⟩]) := by decide +kernel

/-- Vector 2.7: `DRAW_CHAR 'A', 126, 0` writes two columns; `DRAW_CHAR 'A', 10, 9` draws on page 7 with no spacer. -/
theorem test_drawChar :
    cellsAfter (step (stT [(128, 0xAA)] false 0x06417E00 .absent)) 125 4 = some [0, 0x1F, 0x05, 0xAA] ∧
    cellsAfter (step (stT [(937, 0xAA)] false 0x06410A09 .absent)) 934 4 = some [0x1F, 0x05, 0x1F, 0xAA] := by
  decide +kernel

/-- S7 and vector 2.7: an unmapped code is silent and leaves Dirty; x = 255 writes nothing and sets Dirty. -/
theorem test_drawChar_nothing :
    seenAfter (step (stT [] false 0x065A0A02 .absent)) = some (false, [], [⟨.ok, 0⟩]) ∧
    seenAfter (step (stT [] false 0x0641FF07 .absent)) = some (true, [], [⟨.ok, 0⟩]) ∧
    cellsAfter (step (stT [] false 0x0641FF07 .absent)) 1051 5 = some [0, 0, 0, 0, 0] := by decide +kernel

/-- Vector 2.8: a failed FLUSH leaves Dirty and logs the 1056 bytes with the number the channel took. -/
theorem test_flush_fail :
    (match step { st [(3, 9)] true 0x07000000 .absent with answers := [.fail 500] } with
      | .next t => decide (t.dirty = true ∧ t.chan.map (fun x => (x.mode, x.answer, x.bytes.length, x.bytes.getD 3 0)) =
          [(.data, .fail 500, 1056, 9)] ∧ t.responses = [⟨.errTx, 0⟩])
      | _ => false) = true := by decide +kernel

/-- Vector 2.8: FLUSH with Dirty 0 (and an ignored field) sends nothing; with `ok` it clears Dirty. -/
theorem test_flush :
    step (st [] false 0x07120000 .absent) =
      .next { st [] false 0x07120000 .absent with responses := [⟨.ok, 0⟩], pc := 1 } ∧
    seenAfter (step { st [] true 0x07000000 .absent with answers := [.ok] }) = some (false, [], [⟨.ok, 0⟩]) := by
  exact ⟨rfl, by decide +kernel⟩

/-- Vector 2.5: ATTACH_FONT from reset, and with an empty range; a table that is too short is refused (U2). -/
theorem test_attachFont :
    step (st [] false 0x08414300 (.table fontT)) =
      .next { stT [] false 0x08414300 (.table fontT) with responses := [⟨.ok, 0⟩], pc := 1 } ∧
    refusal (step (st [] false 0x08504000 (.table []))) = none ∧
    refusal (step (st [] false 0x08414400 (.table fontT))) = some .malformedTable := by
  exact ⟨rfl, by decide, by decide⟩

/-- Vector 2.5: DETACH_FONT leaves Dirty, StartChar and EndChar. -/
theorem test_detachFont :
    step (stT [] true 0x09000000 .absent) =
      .next { stT [] true 0x09000000 .absent with fontAttached := false, responses := [⟨.ok, 0⟩], pc := 1 } := rfl

/-- Vector 2.2: with `B[137] = 0x04`, READ_PIXEL 5, 10 is 1 and READ_PIXEL 5, 11 is 0. -/
theorem test_readPixel :
    seenAfter (step (st [(137, 0x04)] false 0x0A050AFF .absent)) = some (false, [], [⟨.ok, 1⟩]) ∧
    seenAfter (step (st [(137, 0x04)] false 0x0A050B00 .absent)) = some (false, [], [⟨.ok, 0⟩]) := by decide

/-- Vector 2.2: out of range in x, and in y. -/
theorem test_readPixel_range :
    seenAfter (step (st [] false 0x0A800000 .absent)) = some (false, [.pixelRange 128 0], [⟨.errRange, 0⟩]) ∧
    seenAfter (step (st [] false 0x0A004000 .absent)) = some (false, [.pixelRange 0 64], [⟨.errRange, 0⟩]) := by decide

/-- Vector 2.9: a reserved opcode; with a stray payload it is refused (R87). -/
theorem test_reserved :
    seenAfter (step (st [(1, 1)] true 0xFF123456 .absent)) =
      some (true, [.illegalCommand 0xFF], [⟨.errIllegal, 0⟩]) ∧
    refusal (step (st [] true 0x00000000 (.message []))) = some .strayPayload := by decide

/-- The codes of R88 and R89. -/
theorem test_codes : [Status.ok, .errRange, .errTx, .errIllegal].map Status.code = [0, 1, 2, 3] ∧
    [DiagEvent.rowRange 8, .yRange 64, .unmappedGlyph 0, .illegalCommand 0, .pixelRange 128 0].map DiagEvent.code =
      [1, 2, 3, 4, 5] := by decide

/-- R181: the framing of a transaction, and of one that failed after one byte: both end with chip-select deasserted. -/
theorem test_frame :
    Transaction.frame ⟨.data, [1, 2], .ok⟩ = [.driveMode .data, .assertSelect, .byte 1, .byte 2, .deassertSelect] ∧
    Transaction.frame ⟨.data, [1, 2], .fail 1⟩ = [.driveMode .data, .assertSelect, .byte 1, .deassertSelect] := by decide

/-- The word placed by `withFetchWord` runs as the first command after reset, payload and all. -/
theorem test_withFetchWord :
    seenAfter (step (State.reset.withFetchWord 32 0x03000000)) = some (true, [], [⟨.ok, 0⟩]) ∧
    seenAfter (step (State.reset.withFetchWord 32 0x05000003)) = some (false, [], [⟨.ok, 0⟩]) ∧
    seenAfter (step (State.reset.withFetchWord 32 0x08414300)) = some (false, [], [⟨.ok, 0⟩]) := by decide +kernel

/-! ## Witnesses: the hypotheses of the obligations can be met

Each names its obligation and the state and operands that meet all its hypotheses; where an obligation has clauses over a
range, one at each boundary. -/

theorem witness_StepRunsDecodedCommand : (st [] false 0x01000000 .absent).fetch = some ⟨0x01000000, .absent⟩ ∧
    decode 0x01000000 = .command .clear ∧ (∃ t, exec .clear (st [] false 0x01000000 .absent) = .next t) ∧
    exec .clear (st [] false 0x01000000 (.blob [])) = .refused .strayPayload :=
  ⟨rfl, by decide, (exists_next (p := fun _ => true) (by decide +kernel)).imp fun _ h => h.1, rfl⟩

theorem witness_WaitsWhenNothingIsPresented : State.reset.program.length ≤ State.reset.pc := by decide

theorem witness_IllegalCommandIsReported :
    (st [] false 0x00000000 .absent).fetch = some ⟨0x00000000, .absent⟩ ∧ (opField 0x00000000).toNat = 0 ∧
    (st [] false 0x0B000000 .absent).fetch = some ⟨0x0B000000, .absent⟩ ∧ 0x0B ≤ (opField 0x0B000000).toNat := by decide

theorem witness_IndexAdvancesByOne :
    (st [] false 0x09000000 .absent).pc < (st [] false 0x09000000 .absent).program.length ∧
    ∃ t, step (st [] false 0x09000000 .absent) = .next t := ⟨by decide, ⟨_, rfl⟩⟩

/-- Also of FlagsFollowTheTable, OnlyFlushTransmits, PaddingWriters and FontRegisterWriters, whose hypotheses are that a command
answers a next state. -/
theorem witness_ResponsesFollowTheTable :
    (∃ t, exec (.readPixel 0 0) (st [] false 0x0A000000 .absent) = .next t) ∧
    ∃ t, (st [] false 0x00000000 .absent).illegal 0 = .next t := ⟨⟨_, rfl⟩, ⟨_, rfl⟩⟩

/-- Also of DetachFontResult. -/
theorem witness_ClearResult : (st [] false 0x01000000 .absent).payload = .absent := rfl

theorem witness_ClearRowResult : (st [] false 0x02070000 .absent).payload = .absent ∧ (7 : Byte).toNat < 8 ∧
    8 ≤ (8 : Byte).toNat := by decide

theorem witness_LoadImageResult :
    (st [] false 0x03000000 (.blob (List.replicate 1056 1))).payload = .blob (List.replicate 1056 1) ∧
    (List.replicate 1056 (1 : Byte)).length = 1056 ∧ (List.replicate 1055 (1 : Byte)).length ≠ 1056 :=
  ⟨rfl, List.length_replicate, by rw [List.length_replicate]; decide⟩

/-- LOAD_IMAGE and then FLUSH, with a channel that answers `ok`. -/
def stImage : State :=
  { State.reset with
    program := [⟨0x03000000, .blob (List.replicate 1056 1)⟩, ⟨0x07000000, .absent⟩], answers := [.ok] }

theorem witness_LoadImageRoundTrip : stImage.fetch = some ⟨0x03000000, .blob (List.replicate 1056 1)⟩ ∧
    opField 0x03000000 = 0x03 ∧ (List.replicate 1056 (1 : Byte)).length = 1056 ∧
    stImage.program[stImage.pc + 1]? = some ⟨0x07000000, .absent⟩ ∧ opField 0x07000000 = 0x07 ∧
    stImage.answers = .ok :: [] := ⟨rfl, by decide, List.length_replicate, rfl, by decide, rfl⟩

/-- The corners of the visible coordinates; also of PageFormulasAgree. -/
theorem witness_ComposerMapping : (0 < 128 ∧ 0 < 64) ∧ (127 < 128 ∧ 63 < 64) ∧
    cellIndex 127 63 = 1051 ∧ bitMask 63 = 0x80 := by decide

theorem witness_ComposerBijection : (127 < 128 ∧ 63 < 64) ∧ 1051 < 1056 ∧ 1051 % 132 < 128 ∧ 7 < 8 := by decide

theorem witness_ReadPixelResult : (st [] false 0x0A7F3F00 .absent).payload = .absent ∧
    ((127 : Byte).toNat < 128 ∧ (63 : Byte).toNat < 64) ∧ 128 ≤ (128 : Byte).toNat ∧ 64 ≤ (64 : Byte).toNat := by decide

/-- Also of LineAfterClear. -/
theorem witness_DrawHlineResult : (st [] false 0x043F0000 .absent).payload = .absent ∧ (63 : Byte).toNat < 64 ∧
    64 ≤ (64 : Byte).toNat := by decide

theorem witness_LinesOnlySetBits : (63 : Byte).toNat < 64 ∧
    ∃ t, exec (.drawHline 63) (st [(924, 1)] false 0x043F0000 .absent) = .next t :=
  ⟨by decide, (exists_next (p := fun _ => true) (by decide +kernel)).imp fun _ h => h.1⟩

theorem witness_LineAfterClear : (st [(3, 7)] false 0x01000000 .absent).payload = .absent ∧ (63 : Byte).toNat < 64 ∧
    (127 : Byte).toNat < 128 ∧ (0 : Byte).toNat < 64 := by decide

theorem witness_AttachFontResult : (st [] false 0x08414300 (.table fontT)).payload = .table fontT ∧
    (∀ e ∈ fontT, e.length = 1 + (e.getD 0 0#8).toNat) ∧ fontT.length = (0x43 : Byte).toNat - (0x41 : Byte).toNat + 1 ∧
    ¬ ((0x50 : Byte).toNat ≤ (0x40 : Byte).toNat) ∧
    ¬ ((0x41 : Byte).toNat ≤ (0x44 : Byte).toNat → fontT.length = (0x44 : Byte).toNat - (0x41 : Byte).toNat + 1) := by
  decide

/-- Both clauses: no font attached, and font T attached. -/
theorem witness_DrawTextIsThePseudocode :
    (st [] false 0x05000002 (.message [0x41, 0x3F])).payload = .message [0x41, 0x3F] ∧
    [(0x41 : Byte), 0x3F].length = (2 : Len).toNat ∧
    (st [] false 0x05000002 (.message [0x41, 0x3F])).fontAttached = false ∧
    (stT [] false 0x05000002 (.message [0x41, 0x3F])).payload = .message [0x41, 0x3F] ∧
    (stT [] false 0x05000002 (.message [0x41, 0x3F])).fontAttached = true ∧
    tableWf 0x41 0x43 (stT [] false 0x05000002 (.message [0x41, 0x3F])).glyphs = true := by decide

/-- Also of TextReportsEveryUnmappedCharacter and TextIgnoresOldCells. -/
theorem witness_TextWritesItsRowOnly :
    (stT [] false 0x05080002 (.message [0x41, 0x3F])).payload = .message [0x41, 0x3F] ∧
    (stT [] false 0x05080002 (.message [0x41, 0x3F])).fontAttached = true ∧
    (∃ t, exec (.drawText 8 2) (stT [] false 0x05080002 (.message [0x41, 0x3F])) = .next t) ∧
    ∃ t, exec (.drawChar 0x41 126 8) (stT [] false 0x06417E08 .absent) = .next t :=
  ⟨rfl, rfl, ⟨_, rfl⟩, ⟨_, rfl⟩⟩

theorem witness_UnmappedCharacterIsFiveBlanks :
    (stT [] false 0x05000001 (.message [0x20])).payload = .message [0x20] ∧
    (stT [] false 0x05000001 (.message [0x20])).fontAttached = true ∧
    tableWf 0x41 0x43 (stT [] false 0x05000001 (.message [0x20])).glyphs = true ∧
    ¬ inRange (stT [] false 0x05000001 (.message [0x20])) 0x20 ∧
    ¬ inRange (stT [] false 0x05000001 (.message [0x44])) 0x44 := by decide

theorem witness_MappedCharacterIsItsGlyphAndSpacer :
    (stT [] false 0x05000001 (.message [0x43])).payload = .message [0x43] ∧
    (stT [] false 0x05000001 (.message [0x43])).fontAttached = true ∧
    tableWf 0x41 0x43 (stT [] false 0x05000001 (.message [0x43])).glyphs = true ∧
    inRange (stT [] false 0x05000001 (.message [0x43])) 0x43 ∧
    (stT [] false 0x05000001 (.message [0x43])).glyphs[(0x43 : Byte).toNat - (0x41 : Byte).toNat]? =
      some ((2 : Byte) :: [0x0E, 0x11]) := by decide

theorem witness_TextRowIsClamped : 8 ≤ (8 : Byte).toNat := by decide

/-- The three clauses: no font, an unmapped code, a mapped code at the last column. -/
theorem witness_DrawCharResult : (st [] false 0x06417F07 .absent).payload = .absent ∧
    (st [] false 0x06417F07 .absent).fontAttached = false ∧ ¬ inRange (stT [] false 0x06407F07 .absent) 0x40 ∧
    (stT [] false 0x06417F07 .absent).payload = .absent ∧ (stT [] false 0x06417F07 .absent).fontAttached = true ∧
    inRange (stT [] false 0x06417F07 .absent) 0x41 ∧
    tableWf 0x41 0x43 (stT [] false 0x06417F07 .absent).glyphs = true := by decide

/-- The clauses of FlushResult; the second also of FlushTwiceSendsOnce and FlushIsOneFrame, the third, at the largest
number of bytes taken, also of FailedFlushFrame. -/
theorem witness_FlushResult : (st [] false 0x07000000 .absent).payload = .absent ∧
    (st [] false 0x07000000 .absent).dirty = false ∧
    (let s : State := { st [] true 0x07000000 .absent with answers := [.ok] }
     s.payload = .absent ∧ s.dirty = true ∧ s.nextAnswer = .ok) ∧
    (let s : State := { st [] true 0x07000000 .absent with answers := [.fail 1056] }
     s.payload = .absent ∧ s.dirty = true ∧ s.nextAnswer = .fail 1056) := by decide

theorem witness_RetrySendsTheCurrentBuffer :
    let s : State := { st [] true 0x07000000 .absent with answers := [.fail 0, .ok] }
    s.payload = .absent ∧ s.dirty = true ∧ s.answers = .fail 0 :: .ok :: [] ∧ (63 : Byte).toNat < 64 := by decide

/-- FlagsFollowTheTable's clauses about other commands than FLUSH, and than the text commands. -/
theorem witness_FlagsFollowTheTable :
    (Instr.detachFont ≠ .flush ∧ ∃ t, exec .detachFont (st [] false 0x09000000 .absent) = .next t) ∧
    (∀ row len, Instr.detachFont ≠ .drawText row len) ∧ ∀ code x row, Instr.detachFont ≠ .drawChar code x row :=
  ⟨⟨by decide, ⟨_, rfl⟩⟩, by simp, by simp⟩

/-- The three clauses: a flush that cleans, and that transmits with an `ok`. -/
theorem witness_OnlyASuccessfulFlushCleans :
    (st [(3, 9)] true 0x07000000 .absent).dirty = true ∧
    ∃ t, step { st [(3, 9)] true 0x07000000 .absent with answers := [.ok] } = .next t ∧
      decide (t.dirty = false ∧ t.chan = [⟨.data, (List.range 1056).map (fun k => if k = 3 then 9 else 0), .ok⟩]) =
        true :=
  ⟨rfl, exists_next (p := fun t => decide (t.dirty = false ∧
    t.chan = [⟨.data, (List.range 1056).map (fun k => if k = 3 then 9 else 0), .ok⟩])) (by decide +kernel)⟩

theorem witness_ChangedCellMeansDirty : (st [(0, 1)] false 0x02000000 .absent).buffer.read 0 = 1 ∧
    ∃ t, step (st [(0, 1)] false 0x02000000 .absent) = .next t ∧ decide (t.buffer.read 0 ≠ 1) = true :=
  ⟨by decide, exists_next (p := fun t => decide (t.buffer.read 0 ≠ 1)) (by decide +kernel)⟩

/-- CLEAR changes a padding cell in column 131, CLEAR_ROW 7 the one in column 128. -/
theorem witness_PaddingWriters :
    (∃ t, exec .clear (st [(131, 1)] false 0x01000000 .absent) = .next t ∧
      decide (t.buffer.read (132 * 0 + 131) ≠ 1) = true) ∧
    (∃ t, exec (.clearRow 7) (st [(1052, 1)] false 0x02070000 .absent) = .next t ∧
      decide (t.buffer.read (132 * 7 + 128) ≠ 1) = true) :=
  ⟨exists_next (p := fun t => decide (t.buffer.read (132 * 0 + 131) ≠ 1)) (by decide +kernel),
    exists_next (p := fun t => decide (t.buffer.read (132 * 7 + 128) ≠ 1)) (by decide +kernel)⟩

theorem witness_FontRegisterWriters : (∀ first last, Instr.detachFont ≠ .attachFont first last) ∧
    ∃ t, exec .detachFont (stT [] true 0x09000000 .absent) = .next t := ⟨by simp, ⟨_, rfl⟩⟩

theorem witness_LogsOnlyGrow :
    ∃ t, step (stT [] false 0x05000002 (.message [0x3F, 0x3F])) = .next t ∧ t.diagLog.length = 2 := ⟨_, rfl, rfl⟩

theorem witness_RefusedIffIllPresented : (st [] false 0x01000000 (.blob [])).fontReady ∧
    (st [] false 0x01000000 (.blob [])).fetch = some ⟨0x01000000, .blob []⟩ ∧
    HostCommand.wf ⟨0x01000000, .blob []⟩ = false ∧ HostCommand.wf ⟨0x01000000, .absent⟩ = true :=
  ⟨fun h => absurd h (by decide), rfl, by decide, by decide⟩

theorem witness_ContractHostNeverStops : (stT [] false 0x05000001 (.message [0x41])).fontReady ∧
    ∀ c ∈ (stT [] false 0x05000001 (.message [0x41])).program, c.wf = true := ⟨fun _ => by decide, by decide⟩

/-- Also of StepKeepsCleanIsSent and StepKeepsLogsAndFont: a state with a cell and a font meets the invariants, and steps. -/
theorem witness_StepKeepsCanonicalBuffer :
    let s := stT [(1052, 1)] true 0x05070001 (.message [0x41])
    s.canonical ∧ s.cleanIsSent ∧ s.fontReady ∧ s.chanShaped ∧ s.counted ∧ s.logsLegal ∧ ∃ t, step s = .next t :=
  ⟨by simp only [State.canonical]; decide, fun h => absurd h (by decide), fun _ => by decide, by simp [State.chanShaped, stT, st, State.reset, State.resetWith],
    by simp [State.counted, stT, st, State.reset, State.resetWith], by simp [State.logsLegal, stT, st, State.reset, State.resetWith], ⟨_, rfl⟩⟩

/-- The family TableRow says something of every command: DRAW_CHAR's word matches the sixth row. -/
theorem witness_TableRow : Sys2Proof.Laws.TableRow.Statement (.drawChar 0x41 10 2) :=
  Sys2Proof.Laws.TableRow.drawChar _ _ _

end Sys2Proof.Tests
end

/-!
PROOFS. The converse of `exec_effect`, the two flags after a command and after a step, and the commands that read neither
flag (R24 to R26, R33).
-/

namespace Sys2Proof.Machine

/-! ## An effect is what the command answers -/

/-- A drawing command whose cells stay in the Buffer stores them, marks Dirty and answers OK. -/
theorem store_drawn_eq (s : State) {a : Nat} {bs : List Byte} (h : bs = [] ∨ a + bs.length ≤ Config.bufferCount) :
    andThen (s.store a bs) State.drawn = .next ((s.setBuffer (s.buffer.writeRun a bs)).markDirty.respond .ok 0) := by
  rw [State.store_eq s h, andThen_next, State.drawn_eq]

/-- The line drawer's page is the composer's (R134). -/
theorem linePage_eq (y : Nat) : linePage y = y / 8 := by
  simp only [linePage, Config.pixInPage, Config.pixelHeight]; omega

/-- A span of 129 cells from the start of a page stays in the Buffer (R53). -/
theorem page_span_in_buffer {page : Nat} (h : page < 8) : 132 * page + spanWidth ≤ Config.bufferCount := by
  rw [spanWidth_eq, Config.bufferCount]; omega

/-- Columns drawn from column `x` on and cut at column 128 stay in the Buffer, or there are none (R53, R157). -/
theorem row_columns_in_buffer (row : Byte) (x : Nat) (cols : List Byte) :
    cols.take (128 - x) = [] ∨ 132 * clampRow row + x + (cols.take (128 - x)).length ≤ Config.bufferCount := by
  have hrow := clampRow_lt row
  rcases Nat.lt_or_ge x 128 with hx | hx
  · right; rw [List.length_take, Config.bufferCount]; omega
  · left; rw [Nat.sub_eq_zero_of_le hx, List.take_zero]

/-- Every effect is answered: the bounds checks of the accessors always pass (R53). -/
theorem Effect.exec_eq {i : Instr} {s t : State} (h : Effect i s t) : exec i s = .next t := by
  cases h with
  | clear hp =>
    rw [exec, execClear, State.expectNone_eq _ hp]
    exact store_drawn_eq s (.inr (by rw [List.length_replicate, Nat.zero_add]))
  | clearRow hp hr =>
    rw [exec, execClearRow, State.expectNone_eq _ hp, cellAt_eq]
    exact (if_neg (Nat.not_le.mpr hr)).trans
      (store_drawn_eq s (.inr (by rw [List.length_replicate]; exact page_span_in_buffer hr)))
  | clearRowRange hp hr =>
    rw [exec, execClearRow, State.expectNone_eq _ hp]
    exact if_pos hr
  | loadImage hp hl =>
    rw [exec, execLoadImage, State.expectBlob_eq _ hp hl]
    exact store_drawn_eq s (.inr (by rw [hl, Nat.zero_add]))
  | @drawHline _ y hp hy =>
    have hspan : 132 * (y.toNat / 8) + spanWidth ≤ Config.bufferCount := page_span_in_buffer (by omega)
    rw [exec, execDrawHline, State.expectNone_eq _ hp, cellAt_eq, linePage_eq]
    refine (if_neg (Nat.not_le.mpr hy)).trans ((State.load_eq s _ (.inr hspan)).trans (store_drawn_eq s (.inr ?_)))
    rw [List.length_map, Memory.readRun_length]
    exact hspan
  | drawHlineRange hp hy =>
    rw [exec, execDrawHline, State.expectNone_eq _ hp]
    exact if_pos hy
  | textNoFont hp hl hf => rw [exec, execDrawText, State.expectMessage_eq _ hp hl, hf]; rfl
  | @text _ row _ chars hp hl hf hw =>
    have hcols := row_columns_in_buffer row 0 (textColumns s chars)
    rw [Nat.add_zero, Nat.sub_zero] at hcols
    rw [exec, execDrawText, State.expectMessage_eq _ hp hl, if_pos hf, State.withTable_eq _ hw, rowEnd_eq,
      Nat.add_sub_cancel_left, rowBase_eq, State.store_eq s hcols]
    rfl
  | charNothing hp hn =>
    rw [exec, execDrawChar, State.expectNone_eq _ hp, if_neg (by rcases hn with h | h <;> simp [h])]; rfl
  | @char _ code x row hp hf hm hw =>
    rw [exec, execDrawChar, State.expectNone_eq _ hp, if_pos (Bool.and_eq_true_iff.mpr ⟨hf, hm⟩),
      State.withTable_eq _ hw, rowEnd_eq, Nat.add_sub_add_left, rowBase_eq]
    exact store_drawn_eq s (row_columns_in_buffer row x.toNat _)
  | flushClean hp hd => rw [exec, execFlush, State.expectNone_eq _ hp, hd]; rfl
  | flushOk hp hd ha =>
    rw [exec, execFlush, State.expectNone_eq _ hp, if_pos hd, State.load_eq s _ (.inr (Nat.zero_add _).le), ha]; rfl
  | flushFail hp hd ha =>
    rw [exec, execFlush, State.expectNone_eq _ hp, if_pos hd, State.load_eq s _ (.inr (Nat.zero_add _).le), ha]; rfl
  | attachFont hp hw => rw [exec, execAttachFont, State.expectTable_eq _ hp hw]; rfl
  | detachFont hp => rw [exec, execDetachFont, State.expectNone_eq _ hp]; rfl
  | readPixel hp hx hy =>
    rw [exec, execReadPixel, State.expectNone_eq _ hp, cellIndex_eq, bitIndex_eq]
    exact (if_neg (not_or.mpr ⟨Nat.not_le.mpr hx, Nat.not_le.mpr hy⟩)).trans
      (State.load_eq s _ (.inr (by rw [Config.bufferCount]; omega)))
  | readPixelRange hp h =>
    rw [exec, execReadPixel, State.expectNone_eq _ hp]
    exact if_pos h

/-! ## The two flags after a command (R33) -/

/-- Every effect leaves Dirty as R33's table says. -/
theorem Effect.dirty_eq {i : Instr} {s t : State} (h : Effect i s t) : t.dirty = dirtyTable i s := by
  cases h with
  | clear | loadImage | attachFont | detachFont | readPixel | readPixelRange => rfl
  | clearRow _ hr => exact (if_pos hr).symm
  | clearRowRange _ hr => exact (if_neg (Nat.not_lt.mpr hr)).symm
  | drawHline _ hy => exact (if_pos hy).symm
  | drawHlineRange _ hy => exact (if_neg (Nat.not_lt.mpr hy)).symm
  | textNoFont _ _ hf => simp [dirtyTable, hf]
  | text _ _ hf _ => exact (if_pos hf).symm
  | charNothing _ hn =>
    refine (if_neg fun ⟨hf, hr⟩ => ?_).symm
    simp [hf, (mapped_iff _ _).mpr hr] at hn
  | char _ hf hm _ => exact (if_pos ⟨hf, (mapped_iff _ _).mp hm⟩).symm
  | flushClean _ hd => simp [dirtyTable, hd]
  | flushOk _ hd ha => exact (if_pos ⟨hd, ha⟩).symm
  | flushFail _ _ ha => simp [dirtyTable, ha]

/-- Every effect leaves FontAttached as R33's table says. -/
theorem Effect.fontAttached_eq {i : Instr} {s t : State} (h : Effect i s t) : t.fontAttached = fontTable i s := by
  cases h <;> rfl

/-! ## Who reads the flags (R33) -/

/-- Only FLUSH reads Dirty: with another value of it before, any other command has the same effect but for Dirty. -/
theorem Effect.of_other_dirty {i : Instr} {s t : State} (h : Effect i s t) (hi : i ≠ .flush) (d : Bool) :
    ∃ d', Effect i { s with dirty := d } { t with dirty := d' } := by
  cases h with
  | clear hp => exact ⟨true, .clear hp⟩
  | clearRow hp hr => exact ⟨true, .clearRow hp hr⟩
  | clearRowRange hp hr => exact ⟨d, .clearRowRange hp hr⟩
  | loadImage hp hl => exact ⟨true, .loadImage hp hl⟩
  | drawHline hp hy => exact ⟨true, .drawHline hp hy⟩
  | drawHlineRange hp hy => exact ⟨d, .drawHlineRange hp hy⟩
  | textNoFont hp hl hf => exact ⟨d, .textNoFont hp hl hf⟩
  | text hp hl hf hw => exact ⟨true, .text hp hl hf hw⟩
  | charNothing hp hn => exact ⟨d, .charNothing hp hn⟩
  | char hp hf hm hw => exact ⟨true, .char hp hf hm hw⟩
  | flushClean | flushOk | flushFail => exact absurd rfl hi
  | attachFont hp hw => exact ⟨d, .attachFont hp hw⟩
  | detachFont hp => exact ⟨d, .detachFont hp⟩
  | readPixel hp hx hy => exact ⟨d, .readPixel hp hx hy⟩
  | readPixelRange hp h => exact ⟨d, .readPixelRange hp h⟩

/-- Only DRAW_TEXT and DRAW_CHAR read FontAttached: with another value of it before, any other command has the same effect
but for FontAttached. -/
theorem Effect.of_other_fontAttached {i : Instr} {s t : State} (h : Effect i s t)
    (htext : ∀ row len, i ≠ .drawText row len) (hchar : ∀ code x row, i ≠ .drawChar code x row) (f : Bool) :
    ∃ f', Effect i { s with fontAttached := f } { t with fontAttached := f' } := by
  cases h with
  | clear hp => exact ⟨f, .clear hp⟩
  | clearRow hp hr => exact ⟨f, .clearRow hp hr⟩
  | clearRowRange hp hr => exact ⟨f, .clearRowRange hp hr⟩
  | loadImage hp hl => exact ⟨f, .loadImage hp hl⟩
  | drawHline hp hy => exact ⟨f, .drawHline hp hy⟩
  | drawHlineRange hp hy => exact ⟨f, .drawHlineRange hp hy⟩
  | textNoFont | text => exact absurd rfl (htext _ _)
  | charNothing | char => exact absurd rfl (hchar _ _ _)
  | flushClean hp hd => exact ⟨f, .flushClean hp hd⟩
  | flushOk hp hd ha => exact ⟨f, .flushOk hp hd ha⟩
  | flushFail hp hd ha => exact ⟨f, .flushFail hp hd ha⟩
  | attachFont hp hw => exact ⟨true, .attachFont hp hw⟩
  | detachFont hp => exact ⟨false, .detachFont hp⟩
  | readPixel hp hx hy => exact ⟨f, .readPixel hp hx hy⟩
  | readPixelRange hp h => exact ⟨f, .readPixelRange hp h⟩

/-- Settles O36: every effect follows R33's table, and an effect is kept when a flag its command does not read differs. -/
theorem flagsFollowTheTable : Obligations.FlagsFollowTheTable := by
  refine ⟨fun i s t h => ?_, fun op s t h => ?_, fun i s t d hi h => ?_, fun i s t f htext hchar h => ?_⟩
  · exact ⟨(exec_effect h).dirty_eq, (exec_effect h).fontAttached_eq⟩
  · obtain ⟨-, rfl⟩ := illegal_effect h
    exact ⟨rfl, rfl⟩
  · obtain ⟨d', h'⟩ := (exec_effect h).of_other_dirty hi d
    exact ⟨_, h'.exec_eq, rfl⟩
  · obtain ⟨f', h'⟩ := (exec_effect h).of_other_fontAttached htext hchar f
    exact ⟨_, h'.exec_eq, rfl⟩

/-! ## Dirty and the channel over a step (R25) -/

/-- From `s` to `t` nothing was sent, and a Dirty of 1 stayed 1. -/
def KeepsChanAndDirty (s t : State) : Prop := t.chan = s.chan ∧ (s.dirty = true → t.dirty = true)

/-- From `s`, with Dirty 1, to `t` the Buffer was sent once in data mode, and Dirty became 0 iff the channel answered
`ok`. -/
def SendsBuffer (s t : State) : Prop :=
  s.dirty = true ∧ ∃ ans, t.chan = s.chan ++ [⟨.data, s.serialize, ans⟩] ∧ (t.dirty = false ↔ ans = .ok)

/-- A command sends nothing and cleans nothing, or it is a FLUSH that sends the Buffer. -/
theorem Effect.keeps_or_sends {i : Instr} {s t : State} (h : Effect i s t) :
    KeepsChanAndDirty s t ∨ i = .flush ∧ SendsBuffer s t := by
  cases h with
  | clear | clearRow | loadImage | drawHline | text | char => exact .inl ⟨rfl, fun _ => rfl⟩
  | clearRowRange | drawHlineRange | textNoFont | charNothing | flushClean | attachFont | detachFont | readPixel
  | readPixelRange => exact .inl ⟨rfl, id⟩
  | flushOk _ hd ha => exact .inr ⟨rfl, hd, s.nextAnswer, rfl, by simp [ha]⟩
  | flushFail _ hd ha => exact .inr ⟨rfl, hd, s.nextAnswer, rfl, by simp [ha, hd]⟩

/-- A step sends nothing and cleans nothing, or it performs a FLUSH that sends the Buffer. -/
theorem step_keeps_or_sends {s t : State} (h : step s = .next t) :
    KeepsChanAndDirty s t ∨ (∃ c, s.fetch = some c ∧ decode c.word = .command .flush) ∧ SendsBuffer s t := by
  obtain ⟨-, rfl⟩ | ⟨c, i, u, hf, hdec, hu, rfl⟩ | ⟨c, op, u, -, -, hu, rfl⟩ := step_next_cases h
  · exact .inl ⟨rfl, id⟩
  · obtain hkeeps | ⟨rfl, hsends⟩ := (exec_effect hu).keeps_or_sends
    · exact .inl hkeeps
    · exact .inr ⟨⟨c, hf, hdec⟩, hsends⟩
  · obtain ⟨-, rfl⟩ := illegal_effect hu
    exact .inl ⟨rfl, id⟩

/-- Settles O37: each clause excludes one of the two kinds of step, or reads the answer off the entry sent. -/
theorem onlyASuccessfulFlushCleans : Obligations.OnlyASuccessfulFlushCleans := by
  refine ⟨fun s t h hs ht => ?_, fun s t h hne => ?_, fun s t bytes h hsent => ?_⟩
  · obtain ⟨-, hstays⟩ | ⟨⟨c, hf, hdec⟩, -, ans, hchan, hclean⟩ := step_keeps_or_sends h
    · simp [hstays hs] at ht
    · exact ⟨c, hf, hdec, by rw [hchan, hclean.mp ht]⟩
  · obtain ⟨hchan, -⟩ | ⟨-, hd, -⟩ := step_keeps_or_sends h
    · exact absurd hchan hne
    · exact hd
  · obtain ⟨hchan, -⟩ | ⟨-, -, ans, hchan, hclean⟩ := step_keeps_or_sends h
    · simp [hchan] at hsent
    · obtain ⟨-, hok⟩ : s.serialize = bytes ∧ ans = .ok := by simpa [hchan] using hsent
      exact hclean.mpr hok

end Sys2Proof.Machine

/-!
PROOFS. The opcode map read off packed words (R82, R83), and the response of every command (R88).
-/

namespace Sys2Proof

/-! ## The rows of the opcode map (R82, R83)

One lemma per row: the opcode selects the command, and every field the row does not name is arbitrary (R84). -/

section
variable (a b c : Byte)

theorem decode_pack_clear : decode (pack 0x01 a b c) = .command .clear := by
  rw [decode, opField_pack]; rfl

theorem decode_pack_clearRow : decode (pack 0x02 a b c) = .command (.clearRow a) := by
  rw [decode, opField_pack, aField_pack]; rfl

theorem decode_pack_loadImage : decode (pack 0x03 a b c) = .command .loadImage := by
  rw [decode, opField_pack]; rfl

theorem decode_pack_drawHline : decode (pack 0x04 a b c) = .command (.drawHline a) := by
  rw [decode, opField_pack, aField_pack]; rfl

theorem decode_pack_drawText :
    decode (pack 0x05 a b c) = .command (.drawText a (lenField (pack 0x05 a b c))) := by
  rw [decode, opField_pack, aField_pack]; rfl

theorem decode_pack_drawChar : decode (pack 0x06 a b c) = .command (.drawChar a b c) := by
  rw [decode, opField_pack, aField_pack, bField_pack, cField_pack]; rfl

theorem decode_pack_flush : decode (pack 0x07 a b c) = .command .flush := by
  rw [decode, opField_pack]; rfl

theorem decode_pack_attachFont : decode (pack 0x08 a b c) = .command (.attachFont a b) := by
  rw [decode, opField_pack, aField_pack, bField_pack]; rfl

theorem decode_pack_detachFont : decode (pack 0x09 a b c) = .command .detachFont := by
  rw [decode, opField_pack]; rfl

theorem decode_pack_readPixel : decode (pack 0x0A a b c) = .command (.readPixel a b) := by
  rw [decode, opField_pack, aField_pack, bField_pack]; rfl

end

/-- Settles O2: the ten rows, with DRAW_TEXT's length the two bytes of its `len` field. -/
theorem opcodeMapDecodes : Obligations.OpcodeMapDecodes := fun a b c =>
  ⟨decode_pack_clear a b c, decode_pack_clearRow a b c, decode_pack_loadImage a b c, decode_pack_drawHline a b c,
    ⟨lenField (pack 0x05 a b c), lenField_pack_toNat 0x05 a b c, decode_pack_drawText a b c⟩,
    decode_pack_drawChar a b c, decode_pack_flush a b c, decode_pack_attachFont a b c, decode_pack_detachFont a b c,
    decode_pack_readPixel a b c⟩

end Sys2Proof

namespace Sys2Proof.Machine

/-! ## The response of a command (R88) -/

/-- Every effect answers once, with the status and value of R88's table. -/
theorem Effect.responses_eq {i : Instr} {s t : State} (h : Effect i s t) :
    t.responses = s.responses ++ [⟨statusTable i s, valueTable i s⟩] := by
  cases h with
  | clear | loadImage | textNoFont | text | charNothing | char | attachFont | detachFont => rfl
  | clearRow _ hr => simp [statusTable, valueTable, Nat.not_le.mpr hr]
  | clearRowRange _ hr => simp [statusTable, valueTable, hr]
  | drawHline _ hy => simp [statusTable, valueTable, Nat.not_le.mpr hy]
  | drawHlineRange _ hy => simp [statusTable, valueTable, hy]
  | flushClean _ hd => simp [statusTable, valueTable, hd]
  | flushOk _ _ ha => simp [statusTable, valueTable, ha]
  | flushFail _ hd ha => simp [statusTable, valueTable, hd, ha]
  | readPixel _ hx hy =>
    simp [statusTable, valueTable, pixelAt, Nat.not_le.mpr hx, Nat.not_le.mpr hy]
  | readPixelRange _ hrange => simp [statusTable, valueTable, hrange]

/-- Settles O10: every effect answers as R88's table says, and so does the illegal command. -/
theorem responsesFollowTheTable : Obligations.ResponsesFollowTheTable := by
  refine ⟨fun i s t h => (exec_effect h).responses_eq, fun op s t h => ?_, rfl, rfl, rfl, rfl⟩
  obtain ⟨-, rfl⟩ := illegal_effect h
  rfl

end Sys2Proof.Machine

/-!
PROOFS. The commands that fill the Buffer: CLEAR, CLEAR_ROW and LOAD_IMAGE (R110, R111, R113).
-/

namespace Sys2Proof.Machine

/-- A blob that is not of 1056 bytes is refused, whatever the command would have done with it (R113, U1). -/
theorem State.expectBlob_wrong_length {s : State} {bytes : List Byte} (k : List Byte → Result)
    (h : s.payload = .blob bytes) (hl : bytes.length ≠ Config.bufferCount) :
    s.expectBlob k = .refused .blobLength := by
  simp [State.expectBlob, h, blobWf, hl]

/-- A run written over the whole Buffer replaces each of its 1056 cells (R113). -/
theorem Memory.read_overwrite (m : Memory) {bs : List Byte} (hl : bs.length = 1056) (i : Nat) :
    (m.writeRun 0 bs).read i = if i < 1056 then bs.getD i 0#8 else m.read i := by
  simp [Memory.read_writeRun, hl]

/-- Settles O11: CLEAR's effect is a run of 1056 zeros from cell 0 on. -/
theorem clearResult : Obligations.ClearResult := by
  refine ⟨decode_pack_clear, fun s hp => ⟨_, (Effect.clear hp).exec_eq, fun i => ?_, rfl⟩⟩
  refine (Memory.read_fill s.buffer 0 Config.bufferCount 0#8 i).trans ?_
  simp [Config.bufferCount]

/-- Settles O12: CLEAR_ROW's effect is a run of 129 zeros from the page's first cell on, or the report of its row. -/
theorem clearRowResult : Obligations.ClearRowResult := by
  refine ⟨decode_pack_clearRow, fun s row hp => ⟨fun hr => ?_, fun hr => (Effect.clearRowRange hp hr).exec_eq⟩⟩
  refine ⟨_, (Effect.clearRow hp hr).exec_eq, fun i => ?_, rfl⟩
  have hspan : i < 132 * row.toNat + spanWidth ↔ i ≤ 132 * row.toNat + 128 := by rw [spanWidth_eq]; omega
  exact (Memory.read_fill s.buffer _ _ _ i).trans (by simp only [hspan])

/-- Settles O13: LOAD_IMAGE's effect is the blob written over the whole Buffer, if the blob is of the Buffer's length. -/
theorem loadImageResult : Obligations.LoadImageResult := by
  refine ⟨decode_pack_loadImage, fun s blob hp => ⟨fun hl => ?_, fun hl => State.expectBlob_wrong_length _ hp hl⟩⟩
  exact ⟨_, (Effect.loadImage hp hl).exec_eq, Memory.read_overwrite s.buffer hl, rfl⟩

end Sys2Proof.Machine

/-!
PROOFS. Pixels: the composer (R130) and READ_PIXEL (R132).
-/

namespace Sys2Proof.Machine

/-- No visible pixel lies past cell 1051, the last visible column of page 7 (R130). -/
theorem cellIndex_le {x y : Nat} (hx : x < 128) (hy : y < 64) : cellIndex x y ≤ 1051 := by
  rw [cellIndex_eq]; omega

/-- The cell of a visible pixel stands in the pixel's own column, so never in a padding column (R130). -/
theorem cellIndex_mod {x : Nat} (y : Nat) (hx : x < 128) : cellIndex x y % 132 = x := by
  rw [cellIndex_eq]; omega

/-- The mask is the power of two of the bit: the shift stays inside the byte (R130). -/
theorem bitMask_toNat (y : Nat) : (bitMask y).toNat = 2 ^ (y % 8) := by
  have hbit : 2 ^ (y % 8) < 2 ^ 8 := Nat.pow_lt_pow_right (by decide) (Nat.mod_lt y (by decide))
  rw [bitMask, bitIndex_eq, BitVec.toNat_shiftLeft, BitVec.toNat_ofNat, Nat.one_mod_eq_one.mpr (by decide),
    Nat.one_shiftLeft, Nat.mod_eq_of_lt hbit]

/-- The pixel is read from the composer's cell at the composer's bit (R130). -/
theorem pixelAt_eq (s : State) (x y : Nat) :
    pixelAt s x y = ((s.buffer.read (cellIndex x y)).toNat >>> bitIndex y) % 2 := by
  rw [pixelAt, cellIndex_eq, bitIndex_eq]

/-- The pixel is set iff its bit of its cell is 1 (R130). -/
theorem pixelAt_eq_one_iff (s : State) (x y : Nat) :
    pixelAt s x y = 1 ↔ (s.buffer.read (cellIndex x y)).getLsbD (bitIndex y) = true := by
  rw [pixelAt_eq, BitVec.getLsbD, Nat.testBit_eq_decide_div_mod_eq, decide_eq_true_iff, Nat.shiftRight_eq_div_pow]

/-- Settles O15: the composer's functions by their formulas, the cell by its bound and its column, the pixel by its bit. -/
theorem composerMapping : Obligations.ComposerMapping := fun x y hx hy =>
  ⟨pageOf_eq y, bitIndex_eq y, cellIndex_eq x y, cellIndex_le hx hy, bitMask_toNat y,
    (cellIndex_mod y hx).trans_lt hx, fun s => ⟨pixelAt_eq s x y, pixelAt_eq_one_iff s x y⟩⟩

/-- Settles O18: READ_PIXEL's two effects are an answer alone, and the report of its coordinates. -/
theorem readPixelResult : Obligations.ReadPixelResult :=
  ⟨decode_pack_readPixel, fun _ _ _ hp =>
    ⟨fun ⟨hx, hy⟩ => (Effect.readPixel hp hx hy).exec_eq, fun h => (Effect.readPixelRange hp h).exec_eq⟩⟩

end Sys2Proof.Machine

/-!
PROOFS. Fonts and text: DETACH_FONT (R154), DRAW_CHAR (R163), and DRAW_TEXT as the loop of R155.
-/

namespace Sys2Proof.Machine

/-- Settles O23: DETACH_FONT's one effect writes FontAttached and answers. -/
theorem detachFontResult : Obligations.DetachFontResult :=
  ⟨decode_pack_detachFont, fun _ hp => (Effect.detachFont hp).exec_eq⟩

/-! ## A glyph drawn at a column (R163) -/

/-- A run cut after `n` bytes writes the cells that are both before the cut and inside the run. -/
theorem Memory.read_writeRun_take (m : Memory) (a n : Nat) (bs : List Byte) (i : Nat) :
    (m.writeRun a (bs.take n)).read i =
      if a ≤ i ∧ i < a + n ∧ i < a + bs.length then bs.getD (i - a) 0#8 else m.read i := by
  rw [Memory.read_writeRun, List.length_take]
  refine ite_congr (propext ⟨by omega, by omega⟩) (fun h => ?_) fun _ => rfl
  rw [List.getD_eq_getElem?_getD, List.getElem?_take_of_lt (by omega), List.getD_eq_getElem?_getD]

/-- Column `k` of a glyph is byte `1 + k` of its table entry (R150, R151). -/
theorem glyphColumns_getD (s : State) (code : Byte) {k : Nat} (hk : k < (glyphColumns s code).length) :
    (glyphColumns s code).getD k 0#8 = tableByte s.glyphs (code.toNat - s.startChar.toNat) (1 + k) := by
  rw [List.getD_eq_getElem _ _ hk]
  simp only [glyphColumns, List.getElem_map, List.getElem_range]
  rfl

/-- What DRAW_CHAR's run leaves in each cell: the glyph's column, from column `x` of the row to its width or to column 128,
whichever comes first (R163, R166). -/
theorem read_glyph_run (s : State) (code : Byte) (base x i : Nat) :
    (s.buffer.writeRun (base + x) ((glyphColumns s code).take (128 - x))).read i =
      if base + x ≤ i ∧ i < base + 128 ∧
        i < base + x + (tableByte s.glyphs (code.toNat - s.startChar.toNat) 0).toNat
      then tableByte s.glyphs (code.toNat - s.startChar.toNat) (1 + (i - (base + x)))
      else s.buffer.read i := by
  have hlen : (glyphColumns s code).length = (tableByte s.glyphs (code.toNat - s.startChar.toNat) 0).toNat :=
    glyphColumns_length s code
  rw [Memory.read_writeRun_take, hlen]
  refine ite_congr (propext ⟨by omega, by omega⟩) (fun h => ?_) fun _ => rfl
  exact glyphColumns_getD s code (by omega)

/-- Settles O31: DRAW_CHAR's two effects are an answer alone, and the glyph's run cut at the row end. -/
theorem drawCharResult : Obligations.DrawCharResult := by
  refine ⟨decode_pack_drawChar, fun s code x row hp => ⟨fun hn => ?_, fun hf hm hw => ?_⟩⟩
  · have hnothing : s.fontAttached = false ∨ mapped s code = false :=
      hn.imp_right fun h => Bool.eq_false_iff.mpr (mt (mapped_iff s code).mp h)
    exact (Effect.charNothing hp hnothing).exec_eq
  · refine ⟨_, (Effect.char hp hf ((mapped_iff s code).mpr hm) hw).exec_eq, fun i => ?_, rfl⟩
    rw [← clampRow_eq]
    exact read_glyph_run s code (132 * clampRow row) x.toNat i

/-! ## The loop of R155

Every byte the loop emits goes through `Cursor.put`, so a whole message is one fold of `put` over its columns, and such a
fold is one run of cells cut at the row end. -/

/-- Bytes put one by one from the cursor on are one run, cut at the row end; the log is not touched (R157). -/
theorem Cursor.foldl_put (rowEnd : Nat) (bs : List Byte) (c : Cursor) :
    bs.foldl (Cursor.put rowEnd) c =
      ⟨c.buffer.writeRun c.pos (bs.take (rowEnd - c.pos)), c.pos + min (rowEnd - c.pos) bs.length, c.log⟩ := by
  induction bs generalizing c with
  | nil => simp
  | cons b bs ih =>
    rw [List.foldl_cons, ih, Cursor.put]
    by_cases hpos : c.pos < rowEnd
    · obtain ⟨n, hn⟩ : ∃ n, rowEnd - c.pos = n + 1 := ⟨rowEnd - c.pos - 1, by omega⟩
      have hrest : rowEnd - (c.pos + 1) = n := by omega
      have hrun : (c.buffer.writeRun c.pos [b]).writeRun (c.pos + 1) (bs.take n) =
          c.buffer.writeRun c.pos (b :: bs.take n) := Memory.writeRun_writeRun _ _ [b] _
      simp only [if_pos hpos, hrest, hrun, hn, List.take_succ_cons, List.length_cons, Nat.add_min_add_right]
      rw [Nat.add_right_comm, Nat.add_assoc]
    · simp [hpos, Nat.sub_eq_zero_of_le (Nat.le_of_not_lt hpos)]

/-- Emitting bytes does not read the log. -/
theorem Cursor.foldl_put_log (rowEnd : Nat) (bs : List Byte) (c : Cursor) (log : List DiagEvent) :
    bs.foldl (Cursor.put rowEnd) { c with log := log } = { bs.foldl (Cursor.put rowEnd) c with log := log } := by
  rw [Cursor.foldl_put, Cursor.foldl_put]

/-- The loop's test of a character is the negation of the glyph lookup's (R152). -/
theorem unmapped_iff (s : State) (ch : Byte) :
    mapped s ch = false ↔ ch.toNat < s.startChar.toNat ∨ s.endChar.toNat < ch.toNat := by
  rw [← Bool.not_eq_true, mapped_iff]; omega

/-- For a mapped character the loop puts the glyph and its spacer (R159). -/
theorem Cursor.char_mapped {s : State} {ch : Byte} (hm : mapped s ch = true) (rowEnd : Nat) (c : Cursor) :
    Cursor.char s rowEnd c ch = (charColumns s ch).foldl (Cursor.put rowEnd) c := by
  have hin : ¬ (ch.toNat < s.startChar.toNat ∨ s.endChar.toNat < ch.toNat) := by simp [← unmapped_iff, hm]
  rw [Cursor.char, if_neg hin, charColumns_mapped hm, List.foldl_append, glyphColumns, List.foldl_map]
  rfl

/-- For an unmapped character the loop puts five blanks, and reports it unless it is a space (R158, R161). -/
theorem Cursor.char_unmapped {s : State} {ch : Byte} (hm : mapped s ch = false) (rowEnd : Nat) (c : Cursor) :
    Cursor.char s rowEnd c ch =
      { (charColumns s ch).foldl (Cursor.put rowEnd) c with
        log := c.log ++ if ch ≠ 0x20#8 then [.unmappedGlyph ch] else [] } := by
  have hblanks : (List.range 5).foldl (fun c _ => Cursor.put rowEnd c 0#8) c =
      (charColumns s ch).foldl (Cursor.put rowEnd) c := by rw [charColumns_unmapped hm]; rfl
  rw [Cursor.char, if_pos ((unmapped_iff s ch).mp hm), hblanks, Cursor.foldl_put]
  by_cases hspace : ch = 0x20#8 <;> simp [hspace]

/-- One turn of the loop puts the character's columns and logs the character's event, if it has one (R158, R159). -/
theorem Cursor.char_eq (s : State) (rowEnd : Nat) (c : Cursor) (ch : Byte) :
    Cursor.char s rowEnd c ch =
      { (charColumns s ch).foldl (Cursor.put rowEnd) c with log := c.log ++ textEvents s [ch] } := by
  rw [textEvents_cons, textEvents_nil, List.append_nil]
  cases hm : mapped s ch with
  | true => rw [Cursor.char_mapped hm, Cursor.foldl_put]; simp
  | false => rw [Cursor.char_unmapped hm]; simp [Config.spaceCode]

/-- The loop over a message is one fold over its columns and one append of its events. -/
theorem Cursor.foldl_char (s : State) (rowEnd : Nat) (chars : List Byte) (c : Cursor) :
    chars.foldl (Cursor.char s rowEnd) c =
      { (textColumns s chars).foldl (Cursor.put rowEnd) c with log := c.log ++ textEvents s chars } := by
  induction chars generalizing c with
  | nil => simp
  | cons ch chars ih =>
    rw [List.foldl_cons, ih, Cursor.char_eq, Cursor.foldl_put_log, textColumns_cons, List.foldl_append,
      textEvents_cons, textEvents_cons]
    simp

/-- What R155's loop leaves: the message's columns as one run of the clamped row, and its events (R155, R156, R161). -/
theorem textLoop_eq (s : State) (row : Byte) (chars : List Byte) :
    (textLoop s row chars).buffer = s.buffer.writeRun (132 * clampRow row) ((textColumns s chars).take 128) ∧
    (textLoop s row chars).log = s.diagLog ++ textEvents s chars := by
  have hloop : textLoop s row chars =
      chars.foldl (Cursor.char s (132 * clampRow row + 128)) ⟨s.buffer, 132 * clampRow row, s.diagLog⟩ := rfl
  rw [hloop, Cursor.foldl_char, Cursor.foldl_put, Nat.add_sub_cancel_left]
  exact ⟨rfl, rfl⟩

/-- Settles O24: DRAW_TEXT's two effects are an answer alone, and the run and the events that the loop leaves. -/
theorem drawTextIsThePseudocode : Obligations.DrawTextIsThePseudocode := by
  refine ⟨fun a b c => ⟨_, lenField_pack_toNat 0x05 a b c, decode_pack_drawText a b c⟩, fun s row len chars hp hl => ?_⟩
  refine ⟨fun hf => (Effect.textNoFont hp hl hf).exec_eq, fun hf hw => ?_⟩
  obtain ⟨hbuffer, hlog⟩ := textLoop_eq s row chars
  rw [hbuffer, hlog]
  exact (Effect.text hp hl hf hw).exec_eq

end Sys2Proof.Machine

/-!
PROOFS. The data channel (R184).
-/

namespace Sys2Proof.Machine

/-- Settles O41: a command's effect keeps the channel's log, or it is FLUSH sending the Buffer once in data mode; the
illegal command only reports. -/
theorem onlyFlushTransmits : Obligations.OnlyFlushTransmits := by
  refine ⟨fun i s t h => ?_, fun op s t h => ?_⟩
  · obtain ⟨hchan, -⟩ | ⟨hflush, -, ans, hsent, -⟩ := (exec_effect h).keeps_or_sends
    · exact .inl hchan
    · exact .inr ⟨hflush, ans, hsent⟩
  · obtain ⟨-, rfl⟩ := illegal_effect h
    rfl

end Sys2Proof.Machine

/-!
PROOFS. The illegal command: which words decode to it, and the step it makes (R85, R206).
-/

namespace Sys2Proof

/-- A word whose opcode is outside the ten of the map decodes to the illegal command with that opcode (R85, R87). -/
theorem decode_reserved {w : CommandWord} (hop : (opField w).toNat = 0 ∨ 0x0B ≤ (opField w).toNat) :
    decode w = .illegal (opField w) := by
  unfold decode
  split
  case h_11 => rfl
  all_goals omega

end Sys2Proof

namespace Sys2Proof.Machine

/-- The payload is the one presented with the command at the index (R86). -/
theorem State.payload_eq {s : State} {c : HostCommand} (hf : s.fetch = some c) : s.payload = c.payload := by
  rw [State.payload, hf]

/-- A step at an illegal command that goes on moves the index past it (R32, R206). -/
theorem step_illegal {s u : State} {c : HostCommand} {op : Byte} (hf : s.fetch = some c)
    (hd : decode c.word = .illegal op) (hu : s.illegal op = .next u) : step s = .next u.advance := by
  simp only [step, hf, hd]
  exact finish_eq_next.mpr ⟨u, hu, rfl⟩

/-- The illegal command presented with no payload raises category (e): the converse of `illegal_effect` (R206). -/
theorem State.illegal_eq {s : State} (op : Byte) (hp : s.payload = .absent) :
    s.illegal op = .next ((s.report [.illegalCommand op]).respond .errIllegal 0) := by
  rw [State.illegal, State.expectNone_eq _ hp, State.raise_eq]
  rfl

/-- Settles O8: a reserved opcode decodes to the illegal command, and its step reports, answers and moves the index only. -/
theorem illegalCommandIsReported : Obligations.IllegalCommandIsReported := fun _ w hf hop =>
  step_illegal hf (decode_reserved hop) (State.illegal_eq (opField w) (State.payload_eq hf))

end Sys2Proof.Machine

/-!
PROOFS. Decoding: the round trip of every command (R82, R83), the opcode map row by row (R82, R87), the fields of a word
(R81).
-/

namespace Sys2Proof

/-- Settles O4: each command's word is packed from its row's opcode and its operands, so its row of the map reads it back. -/
theorem decodeEncodeRoundTrip : Obligations.DecodeEncodeRoundTrip := by
  intro i
  cases i with
  | clear => exact decode_pack_clear 0 0 0
  | clearRow row => exact decode_pack_clearRow row 0 0
  | loadImage => exact decode_pack_loadImage 0 0 0
  | drawHline y => exact decode_pack_drawHline y 0 0
  | drawText row len => rw [encode, decode_pack_drawText, lenField_pack_split]
  | drawChar code x row => exact decode_pack_drawChar code x row
  | flush => exact decode_pack_flush 0 0 0
  | attachFont first last => exact decode_pack_attachFont first last 0
  | detachFont => exact decode_pack_detachFont 0 0 0
  | readPixel x y => exact decode_pack_readPixel x y 0

/-- The opcode a row of the map matches: the top byte of its pattern (R82). -/
def OpcodeRow.opcode (r : OpcodeRow) : Nat := r.pattern.toNat / 2 ^ 24

/-- A word matches a row of the map iff its opcode byte is the row's (R82). -/
theorem row_matches_iff (w : CommandWord) {r : OpcodeRow} (hr : r ∈ opcodeTable) :
    w &&& r.mask = r.pattern ↔ (opField w).toNat = r.opcode := by
  have hrows : ∀ r ∈ opcodeTable,
      r.mask = 0xFF000000#32 ∧ r.pattern = BitVec.ofNat 32 (r.opcode * 2 ^ 24) ∧ r.opcode < 256 := by decide
  obtain ⟨hmask, hpattern, hlt⟩ := hrows r hr
  rw [hmask, hpattern]
  exact and_opMask_iff w r.opcode hlt

/-- A word whose opcode is the one of the row named `name` matches that row and no other (R87). -/
theorem matches_only_row {w : CommandWord} {k : Nat} (hk : (opField w).toNat = k) {name : String}
    (hname : ∀ r ∈ opcodeTable, k = r.opcode ↔ r.mnemonic = name) :
    ∀ r ∈ opcodeTable, (w &&& r.mask = r.pattern ↔ r.mnemonic = name) := fun r hr => by
  rw [row_matches_iff w hr, hk]
  exact hname r hr

/-- The ten opcodes of the map are 1 to 10 (R82). -/
theorem opcode_range : ∀ r ∈ opcodeTable, 1 ≤ r.opcode ∧ r.opcode ≤ 10 := by decide

/-- A word decodes to the illegal command only with a reserved opcode: the converse of `decode_reserved` (R85). -/
theorem reserved_of_decode {w : CommandWord} {op : Byte} (h : decode w = .illegal op) :
    op = opField w ∧ (op.toNat = 0 ∨ 0x0B ≤ op.toNat) := by
  unfold decode at h
  split at h
  case h_11 =>
    cases h
    refine ⟨rfl, ?_⟩
    simp only [imp_false] at *
    omega
  all_goals cases h

/-- Settles O3: each opcode of the map matches its own row only; any other is 0 or above 10, and matches none. -/
theorem decodingFollowsTheTable : Obligations.DecodingFollowsTheTable := by
  intro w
  cases hd : decode w with
  | illegal op =>
    obtain ⟨rfl, hop⟩ := reserved_of_decode hd
    refine .inr ⟨rfl, hop, fun r hr hmatch => ?_⟩
    have hrow := (row_matches_iff w hr).mp hmatch
    have hrange := opcode_range r hr
    omega
  | command i =>
    refine .inl ⟨i, rfl, ?_⟩
    unfold decode at hd
    split at hd
    case h_11 => cases hd
    all_goals
      rename_i hop
      cases hd
      exact matches_only_row hop (by simp only [Instr.mnemonic]; decide)

/-- Settles O1: the sum of R81 is the packed word's value, and each field reads back. -/
theorem wordIsItsFields : Obligations.WordIsItsFields := by
  intro op a b c
  refine ⟨?_, opField_pack op a b c, aField_pack op a b c, bField_pack op a b c, cField_pack op a b c,
    lenField_pack_toNat op a b c⟩
  rw [pack_sum]
  omega

/-- Settles O5: each word evaluates to its command. -/
theorem sampleWordsDecode : Obligations.SampleWordsDecode := by
  unfold Obligations.SampleWordsDecode
  decide

end Sys2Proof

/-!
PROOFS. What a step can do, by effects, and its invariants: the canonical Buffer (R20), a clean Buffer is the one sent
(R189, R242), the shape of the logs, the response count and the attached table (R32, R88, R89, R151, R184).
-/

namespace Sys2Proof.Machine

/-- What a step that answers a next state did, with the command's effect in place of its meaning: `step_next_cases` with
`exec_effect` and `illegal_effect` applied. -/
theorem step_effect_cases {s t : State} (h : step s = .next t) :
    (s.fetch = none ∧ t = s) ∨
    (∃ c i u, s.fetch = some c ∧ decode c.word = .command i ∧ Effect i s u ∧ t = u.advance) ∨
    (∃ c op, s.fetch = some c ∧ decode c.word = .illegal op ∧ s.payload = .absent ∧
      t = ((s.report [.illegalCommand op]).respond .errIllegal 0).advance) := by
  obtain hwait | ⟨c, i, u, hf, hd, hu, ht⟩ | ⟨c, op, u, hf, hd, hu, rfl⟩ := step_next_cases h
  · exact .inl hwait
  · exact .inr (.inl ⟨c, i, u, hf, hd, exec_effect hu, ht⟩)
  · obtain ⟨hp, rfl⟩ := illegal_effect hu
    exact .inr (.inr ⟨c, op, hf, hd, hp, rfl⟩)

/-! ## The Buffer over a step -/

/-- From `s` to `t` the Buffer is as it was, or a run inside it was written and Dirty is 1. -/
def KeepsOrWrites (s t : State) : Prop :=
  t.buffer = s.buffer ∨
    t.dirty = true ∧ ∃ a bs, (bs = [] ∨ a + bs.length ≤ Config.bufferCount) ∧ t.buffer = s.buffer.writeRun a bs

/-- Every command keeps the Buffer or writes one run inside it and marks Dirty (R24, R53). -/
theorem Effect.keeps_or_writes {i : Instr} {s t : State} (h : Effect i s t) : KeepsOrWrites s t := by
  cases h with
  | clear => exact .inr ⟨rfl, _, _, .inr (by rw [List.length_replicate, Nat.zero_add]), rfl⟩
  | clearRow _ hr =>
    exact .inr ⟨rfl, _, _, .inr (by rw [List.length_replicate]; exact page_span_in_buffer hr), rfl⟩
  | loadImage _ hl => exact .inr ⟨rfl, _, _, .inr (by rw [hl, Nat.zero_add]), rfl⟩
  | @drawHline _ y _ hy =>
    have hspan : 132 * (y.toNat / 8) + spanWidth ≤ Config.bufferCount := page_span_in_buffer (by omega)
    exact .inr ⟨rfl, _, _, .inr (by rw [List.length_map, Memory.readRun_length]; exact hspan), rfl⟩
  | @text _ row _ chars => exact .inr ⟨rfl, _, _, row_columns_in_buffer row 0 (textColumns s chars), rfl⟩
  | @char _ code x row => exact .inr ⟨rfl, _, _, row_columns_in_buffer row x.toNat (glyphColumns s code), rfl⟩
  | clearRowRange | drawHlineRange | textNoFont | charNothing | flushClean | flushOk | flushFail | attachFont
  | detachFont | readPixel | readPixelRange => exact .inl rfl

/-- A step keeps the Buffer, or writes one run inside it and leaves Dirty 1. -/
theorem step_keeps_or_writes {s t : State} (h : step s = .next t) : KeepsOrWrites s t := by
  obtain ⟨-, rfl⟩ | ⟨c, i, u, -, -, hu, rfl⟩ | ⟨c, op, -, -, -, rfl⟩ := step_effect_cases h
  · exact .inl rfl
  · exact hu.keeps_or_writes
  · exact .inl rfl

/-- Settles O46: a run written inside a canonical Buffer leaves it canonical. -/
theorem stepKeepsCanonicalBuffer : Obligations.StepKeepsCanonicalBuffer := by
  intro s t hs h
  rw [State.canonical] at hs ⊢
  obtain hkept | ⟨-, a, bs, hin, hwritten⟩ := step_keeps_or_writes h
  · rwa [hkept]
  · rw [hwritten]
    exact Memory.writeRun_wf hs hin

/-- A step that leaves Dirty 0 has kept the Buffer (R242). -/
theorem step_clean_keeps_buffer {s t : State} (h : step s = .next t) (ht : t.dirty = false) :
    t.buffer = s.buffer := by
  obtain hkept | ⟨hdirty, -⟩ := step_keeps_or_writes h
  · exact hkept
  · simp [hdirty] at ht

/-- Settles O38: a step that leaves Dirty 0 has kept every cell. -/
theorem changedCellMeansDirty : Obligations.ChangedCellMeansDirty := by
  intro s t h i hchanged
  by_contra hclean
  exact hchanged (by rw [step_clean_keeps_buffer h (Bool.eq_false_iff.mpr hclean)])

/-! ## A clean Buffer is the one sent (R189, R242) -/

/-- What the display was last sent depends on the channel's log only (R189). -/
theorem State.lastSent_congr {s t : State} (h : t.chan = s.chan) : t.lastSent = s.lastSent := by
  simp only [State.lastSent, h]

/-- After a transaction answered `ok` the display was last sent its bytes (R189). -/
theorem State.lastSent_of_sent {s t : State} {mode : ChanMode} {bytes : List Byte}
    (h : t.chan = s.chan ++ [⟨mode, bytes, .ok⟩]) : t.lastSent = bytes := by
  simp [State.lastSent, h]

/-- Settles O47: a step that leaves Dirty 0 kept the Buffer; it sent nothing and Dirty was 0 before it, or it sent that
Buffer and the channel answered `ok`. -/
theorem stepKeepsCleanIsSent : Obligations.StepKeepsCleanIsSent := by
  intro s t hs h ht
  have hserial : t.serialize = s.serialize := by
    rw [State.serialize, step_clean_keeps_buffer h ht, State.serialize]
  rw [hserial]
  obtain ⟨hchan, hstays⟩ | ⟨-, -, ans, hchan, hclean⟩ := step_keeps_or_sends h
  · have hd : s.dirty = false := Bool.eq_false_iff.mpr fun hd => by simp [hstays hd] at ht
    rw [State.lastSent_congr hchan]
    exact hs hd
  · rw [hclean.mp ht] at hchan
    exact (State.lastSent_of_sent hchan).symm

/-! ## The attached table (R151) -/

/-- A command keeps an attached table well-formed: only ATTACH_FONT attaches one, and checks it (R153). -/
theorem Effect.keeps_fontReady {i : Instr} {s t : State} (h : Effect i s t) (hs : s.fontReady) : t.fontReady := by
  cases h with
  | attachFont _ hw => exact fun _ => hw
  | detachFont => exact fun hf => absurd hf (by simp)
  | clear | clearRow | clearRowRange | loadImage | drawHline | drawHlineRange | textNoFont | text | charNothing
  | char | flushClean | flushOk | flushFail | readPixel | readPixelRange => exact hs

theorem step_keeps_fontReady {s t : State} (h : step s = .next t) (hs : s.fontReady) : t.fontReady := by
  obtain ⟨-, rfl⟩ | ⟨c, i, u, -, -, hu, rfl⟩ | ⟨c, op, -, -, -, rfl⟩ := step_effect_cases h
  · exact hs
  · exact hu.keeps_fontReady hs
  · exact hs

/-! ## The host's list and its index (R32) -/

/-- No command touches the host's list or its index (R32). -/
theorem Effect.keeps_program {i : Instr} {s t : State} (h : Effect i s t) : t.program = s.program ∧ t.pc = s.pc := by
  cases h <;> exact ⟨rfl, rfl⟩

theorem step_keeps_program {s t : State} (h : step s = .next t) : t.program = s.program := by
  obtain ⟨-, rfl⟩ | ⟨c, i, u, -, -, hu, rfl⟩ | ⟨c, op, -, -, -, rfl⟩ := step_effect_cases h
  · rfl
  · exact hu.keeps_program.1
  · rfl

/-- The response of R88's table is a legal one. -/
theorem tables_legal (i : Instr) (s : State) : Response.legal ⟨statusTable i s, valueTable i s⟩ := by
  cases i with
  | readPixel x y =>
    by_cases hr : 128 ≤ x.toNat ∨ 64 ≤ y.toNat
    · simp [Response.legal, valueTable, hr]
    · simp only [Response.legal, statusTable, valueTable, if_neg hr]
      exact ⟨Nat.lt_succ_iff.mp (Nat.mod_lt _ (by decide)), fun hok => absurd rfl hok⟩
  | clear | clearRow | loadImage | drawHline | drawText | drawChar | flush | attachFont | detachFont =>
    exact ⟨Nat.zero_le 1, fun _ => rfl⟩

/-- A step waits, or it moves the index by one and gives one response, a legal one (R32, R88). -/
theorem step_waits_or_answers {s t : State} (h : step s = .next t) :
    (s.fetch = none ∧ t = s) ∨
    (t.pc = s.pc + 1 ∧ ∃ r : Response, r.legal ∧ t.responses = s.responses ++ [r]) := by
  obtain hwait | ⟨c, i, u, -, -, hu, rfl⟩ | ⟨c, op, -, -, -, rfl⟩ := step_effect_cases h
  · exact .inl hwait
  · refine .inr ⟨by rw [State.advance_pc, hu.keeps_program.2], _, tables_legal i s, hu.responses_eq⟩
  · exact .inr ⟨rfl, _, ⟨Nat.zero_le 1, fun _ => rfl⟩, rfl⟩

/-- Settles O9: a command at the index is no wait, so the index moves and one response is given. -/
theorem indexAdvancesByOne : Obligations.IndexAdvancesByOne := by
  intro s t hlt h
  obtain ⟨hf, -⟩ | ⟨hpc, r, -, hr⟩ := step_waits_or_answers h
  · exact absurd hlt (Nat.not_lt.mpr (List.getElem?_eq_none_iff.mp hf))
  · exact ⟨hpc, step_keeps_program h, r, hr⟩

/-! ## The logs (R88, R89, R184) -/

/-- Every event of a message is that of an unmapped character, and no space (R158). -/
theorem textEvents_legal {s : State} {chars : List Byte} : ∀ e ∈ textEvents s chars, e.legal := by
  simp only [textEvents, List.mem_map, List.mem_filter, Bool.and_eq_true, bne_iff_ne]
  rintro _ ⟨ch, ⟨-, -, hspace⟩, rfl⟩
  exact hspace

/-- From `s` to `t` the diagnostic log grew by legal events, by one at most unless `many`. -/
def Reports (many : Prop) (s t : State) : Prop :=
  ∃ es, t.diagLog = s.diagLog ++ es ∧ (∀ e ∈ es, DiagEvent.legal e) ∧ (es.length ≤ 1 ∨ many)

/-- Nothing reported. -/
theorem Reports.nothing {many : Prop} {s t : State} (h : t.diagLog = s.diagLog) : Reports many s t :=
  ⟨[], by simp [h], by simp, .inl (by simp)⟩

/-- One legal event reported. -/
theorem Reports.one {many : Prop} {s t : State} {e : DiagEvent} (h : t.diagLog = s.diagLog ++ [e]) (he : e.legal) :
    Reports many s t :=
  ⟨[e], h, by simpa using he, .inl (by simp)⟩

/-- Every command reports legal events only, and only DRAW_TEXT more than one (R89, R210). -/
theorem Effect.reports {i : Instr} {s t : State} (h : Effect i s t) :
    Reports (∃ row len, i = .drawText row len) s t := by
  cases h with
  | clearRowRange _ hr => exact .one rfl hr
  | drawHlineRange _ hy => exact .one rfl hy
  | readPixelRange _ hrange => exact .one rfl hrange
  | text => exact ⟨_, rfl, textEvents_legal, .inr ⟨_, _, rfl⟩⟩
  | flushFail => exact .nothing (List.append_nil _)
  | clear | clearRow | loadImage | drawHline | textNoFont | charNothing | char | flushClean | flushOk | attachFont
  | detachFont | readPixel => exact .nothing rfl

/-- Every step reports legal events only, and only one that performs DRAW_TEXT more than one (R89, R210). -/
theorem step_reports {s t : State} (h : step s = .next t) :
    Reports (∃ c row len, s.fetch = some c ∧ decode c.word = .command (.drawText row len)) s t := by
  obtain ⟨-, rfl⟩ | ⟨c, i, u, hf, hd, hu, rfl⟩ | ⟨c, op, -, hd, -, rfl⟩ := step_effect_cases h
  · exact .nothing rfl
  · obtain ⟨es, hlog, hlegal, hone | ⟨row, len, rfl⟩⟩ := hu.reports
    · exact ⟨es, hlog, hlegal, .inl hone⟩
    · exact ⟨es, hlog, hlegal, .inr ⟨c, row, len, hf, hd⟩⟩
  · exact .one rfl (reserved_of_decode hd).2

/-- The serialization is the 1056 cells in index order (R62). -/
theorem State.serialize_eq_map (s : State) : s.serialize = (List.range 1056).map s.buffer.read :=
  (Memory.readRun_eq_map _ _ _).trans (List.map_congr_left fun k _ => by rw [Nat.zero_add])

theorem State.serialize_length (s : State) : s.serialize.length = 1056 := Memory.readRun_length _ _ _

theorem step_keeps_chanShaped {s t : State} (h : step s = .next t) (hs : s.chanShaped) : t.chanShaped := by
  obtain ⟨hchan, -⟩ | ⟨-, -, ans, hchan, -⟩ := step_keeps_or_sends h
  · rwa [State.chanShaped, hchan]
  · rw [State.chanShaped, hchan]
    exact List.forall_mem_append.mpr ⟨hs, by simp [State.serialize_length]⟩

theorem step_keeps_counted {s t : State} (h : step s = .next t) (hs : s.counted) : t.counted := by
  obtain ⟨-, rfl⟩ | ⟨hpc, r, -, hr⟩ := step_waits_or_answers h
  · exact hs
  · rw [State.counted, hr, hpc, List.length_append, hs, List.length_singleton]

theorem step_keeps_logsLegal {s t : State} (h : step s = .next t) (hs : s.logsLegal) : t.logsLegal := by
  obtain ⟨hevents, hresponses⟩ := hs
  refine ⟨?_, ?_⟩
  · obtain ⟨es, hlog, hlegal, -⟩ := step_reports h
    rw [hlog]
    exact List.forall_mem_append.mpr ⟨hevents, hlegal⟩
  · obtain ⟨-, rfl⟩ | ⟨-, r, hlegal, hr⟩ := step_waits_or_answers h
    · exact hresponses
    · rw [hr]
      exact List.forall_mem_append.mpr ⟨hresponses, by simpa using hlegal⟩

/-- Settles O48: each of the four invariants is kept by itself. -/
theorem stepKeepsLogsAndFont : Obligations.StepKeepsLogsAndFont := by
  rintro s t ⟨hfont, hchan, hcounted, hlegal⟩ h
  exact ⟨step_keeps_fontReady h hfont, step_keeps_chanShaped h hchan, step_keeps_counted h hcounted,
    step_keeps_logsLegal h hlegal⟩

/-- Settles O42: the channel's log and the responses grow by one entry at most, the diagnostic log by the step's events. -/
theorem logsOnlyGrow : Obligations.LogsOnlyGrow := by
  intro s t h
  refine ⟨?_, ?_, ?_, ?_⟩
  · obtain ⟨hchan, -⟩ | ⟨-, -, ans, hchan, -⟩ := step_keeps_or_sends h
    · rw [hchan]
    · exact hchan ▸ List.prefix_append _ _
  · obtain ⟨es, hlog, -⟩ := step_reports h
    exact hlog ▸ List.prefix_append _ _
  · obtain ⟨-, rfl⟩ | ⟨-, r, -, hr⟩ := step_waits_or_answers h
    · exact List.prefix_refl _
    · exact hr ▸ List.prefix_append _ _
  · obtain ⟨es, hlog, -, hmany⟩ := step_reports h
    exact hmany.imp_left fun hone => by rw [hlog, List.length_append]; omega

/-- Settles O40: by cases on the effect; ATTACH_FONT is excluded and DETACH_FONT clears the flag only. -/
theorem fontRegisterWriters : Obligations.FontRegisterWriters := by
  intro i s t hattach h
  cases exec_effect h with
  | attachFont => exact absurd rfl (hattach _ _)
  | detachFont => exact ⟨rfl, rfl, rfl, fun hdetach => absurd rfl hdetach⟩
  | clear | clearRow | clearRowRange | loadImage | drawHline | drawHlineRange | textNoFont | text | charNothing
  | char | flushClean | flushOk | flushFail | readPixel | readPixelRange => exact ⟨rfl, rfl, rfl, fun _ => rfl⟩

/-! ## Reset (R37) -/

/-- The Buffer at reset is serialized as 1056 zeros (R37, R62). -/
theorem State.serialize_resetWith (d : Bool) :
    (State.resetWith d).serialize = List.replicate Config.bufferCount 0#8 := by
  refine (Memory.readRun_eq_map _ _ _).trans ?_
  simp only [State.resetWith_buffer, Memory.read_nil, List.map_const', List.length_range]

/-- Settles O49: at reset no cell is listed, nothing was sent and both logs are empty. -/
theorem resetMeetsTheInvariants : Obligations.ResetMeetsTheInvariants := by
  intro d
  exact ⟨⟨.nil, nofun⟩, fun _ => State.serialize_resetWith d, nofun, nofun, rfl, nofun, nofun⟩

/-- Settles O50: the reset state's own fields (R37, D23). -/
theorem resetValues : Obligations.ResetValues := ⟨fun i _ => Memory.read_nil i, rfl, rfl, rfl, rfl⟩

end Sys2Proof.Machine

/-!
PROOFS. When a command is performed and when it is refused: the payload the host presents, and an attached table's form
(R53, R86, R87, U1, U2).
-/

namespace Sys2Proof.Machine

/-! ## The payloads a command takes (R86, R87) -/

theorem payloadWf_loadImage {p : Payload} :
    Instr.loadImage.payloadWf p = true ↔ ∃ bytes, p = .blob bytes ∧ bytes.length = Config.bufferCount := by
  cases p <;> simp [Instr.payloadWf, blobWf]

theorem payloadWf_drawText {row : Byte} {len : Len} {p : Payload} :
    (Instr.drawText row len).payloadWf p = true ↔ ∃ chars, p = .message chars ∧ chars.length = len.toNat := by
  cases p <;> simp [Instr.payloadWf, messageWf]

theorem payloadWf_attachFont {first last : Byte} {p : Payload} :
    (Instr.attachFont first last).payloadWf p = true ↔ ∃ g, p = .table g ∧ tableWf first last g = true := by
  cases p <;> simp [Instr.payloadWf]

/-- A command with an effect was presented with a payload that fits it. -/
theorem Effect.payloadWf {i : Instr} {s t : State} (h : Effect i s t) : i.payloadWf s.payload = true := by
  cases h with
  | loadImage hp hl => exact payloadWf_loadImage.mpr ⟨_, hp, hl⟩
  | textNoFont hp hl | text hp hl => exact payloadWf_drawText.mpr ⟨_, hp, hl⟩
  | attachFont hp hw => exact payloadWf_attachFont.mpr ⟨_, hp, hw⟩
  | clear hp | clearRow hp | clearRowRange hp | drawHline hp | drawHlineRange hp | charNothing hp | char hp
  | flushClean hp | flushOk hp | flushFail hp | detachFont hp | readPixel hp | readPixelRange hp =>
    exact decide_eq_true hp

/-! ## Refusals (R87) -/

theorem State.expectBlob_refused {s : State} (k : List Byte → Result)
    (h : ¬ ∃ bytes, s.payload = .blob bytes ∧ bytes.length = Config.bufferCount) :
    ∃ r, s.expectBlob k = .refused r := by
  unfold State.expectBlob
  split
  · rename_i bytes hp
    exact ⟨_, if_neg fun hl => h ⟨bytes, hp, by simpa [blobWf] using hl⟩⟩
  · exact ⟨_, rfl⟩

theorem State.expectMessage_refused {s : State} {len : Len} (k : List Byte → Result)
    (h : ¬ ∃ chars, s.payload = .message chars ∧ chars.length = len.toNat) :
    ∃ r, s.expectMessage len k = .refused r := by
  unfold State.expectMessage
  split
  · rename_i chars hp
    exact ⟨_, if_neg fun hl => h ⟨chars, hp, by simpa [messageWf] using hl⟩⟩
  · exact ⟨_, rfl⟩

/-- ATTACH_FONT with a table that is ill-formed for its range is refused (U2). -/
theorem State.expectTable_malformed {s : State} {first last : Byte} {g : GlyphTable} (k : GlyphTable → Result)
    (h : s.payload = .table g) (hw : tableWf first last g ≠ true) :
    s.expectTable first last k = .refused .malformedTable := by
  simp [State.expectTable, h, hw]

theorem State.expectTable_refused {s : State} {first last : Byte} (k : GlyphTable → Result)
    (h : ¬ ∃ g, s.payload = .table g ∧ tableWf first last g = true) :
    ∃ r, s.expectTable first last k = .refused r := by
  unfold State.expectTable
  split
  · rename_i g hp
    exact ⟨_, if_neg fun hw => h ⟨g, hp, hw⟩⟩
  · exact ⟨_, rfl⟩

/-- A command presented with a payload that does not fit it is refused (R87, U1). -/
theorem exec_refused_of_payload {i : Instr} {s : State} (h : ¬ i.payloadWf s.payload = true) :
    ∃ r, exec i s = .refused r := by
  cases i with
  | loadImage => exact State.expectBlob_refused _ (mt payloadWf_loadImage.mpr h)
  | drawText row len => exact State.expectMessage_refused _ (mt (payloadWf_drawText (row := row)).mpr h)
  | attachFont first last => exact State.expectTable_refused _ (mt payloadWf_attachFont.mpr h)
  | clear | clearRow | drawHline | drawChar | flush | detachFont | readPixel =>
    exact ⟨_, State.expectNone_stray _ (mt (decide_eq_true (p := s.payload = .absent)) h)⟩

/-! ## What a command presented rightly does -/

/-- A text command is refused when the attached table is ill-formed for its range (U2). -/
theorem State.withTable_malformed {s : State} (o : Result) (h : tableWf s.startChar s.endChar s.glyphs ≠ true) :
    s.withTable o = .refused .malformedTable := by
  simp [State.withTable, h]

/-- A command presented with a payload that fits it has an effect, or an ill-formed table is attached and it is refused. -/
theorem effect_of_payloadWf {i : Instr} {s : State} (h : i.payloadWf s.payload = true) :
    (∃ t, Effect i s t) ∨ ¬ s.fontReady ∧ exec i s = .refused .malformedTable := by
  cases i with
  | clear => exact .inl ⟨_, .clear (of_decide_eq_true h)⟩
  | clearRow row =>
    rcases Nat.lt_or_ge row.toNat 8 with hr | hr
    · exact .inl ⟨_, .clearRow (of_decide_eq_true h) hr⟩
    · exact .inl ⟨_, .clearRowRange (of_decide_eq_true h) hr⟩
  | loadImage =>
    obtain ⟨bytes, hp, hl⟩ := payloadWf_loadImage.mp h
    exact .inl ⟨_, .loadImage hp hl⟩
  | drawHline y =>
    rcases Nat.lt_or_ge y.toNat 64 with hy | hy
    · exact .inl ⟨_, .drawHline (of_decide_eq_true h) hy⟩
    · exact .inl ⟨_, .drawHlineRange (of_decide_eq_true h) hy⟩
  | drawText row len =>
    obtain ⟨chars, hp, hl⟩ := payloadWf_drawText.mp h
    cases hf : s.fontAttached with
    | false => exact .inl ⟨_, .textNoFont hp hl hf⟩
    | true =>
      by_cases hw : tableWf s.startChar s.endChar s.glyphs = true
      · exact .inl ⟨_, .text hp hl hf hw⟩
      · refine .inr ⟨fun hready => hw (hready hf), ?_⟩
        rw [exec, execDrawText, State.expectMessage_eq _ hp hl, if_pos hf, State.withTable_malformed _ hw]
  | drawChar code x row =>
    have hp : s.payload = .absent := of_decide_eq_true h
    by_cases hdraws : s.fontAttached = true ∧ mapped s code = true
    · obtain ⟨hf, hm⟩ := hdraws
      by_cases hw : tableWf s.startChar s.endChar s.glyphs = true
      · exact .inl ⟨_, .char hp hf hm hw⟩
      · refine .inr ⟨fun hready => hw (hready hf), ?_⟩
        rw [exec, execDrawChar, State.expectNone_eq _ hp, if_pos (Bool.and_eq_true_iff.mpr ⟨hf, hm⟩),
          State.withTable_malformed _ hw]
    · exact .inl ⟨_, .charNothing hp (by simpa [imp_iff_not_or] using hdraws)⟩
  | flush =>
    have hp : s.payload = .absent := of_decide_eq_true h
    cases hd : s.dirty with
    | false => exact .inl ⟨_, .flushClean hp hd⟩
    | true =>
      cases ha : s.nextAnswer with
      | ok => exact .inl ⟨_, .flushOk hp hd ha⟩
      | fail n => exact .inl ⟨_, .flushFail hp hd ha⟩
  | attachFont first last =>
    obtain ⟨g, hp, hw⟩ := payloadWf_attachFont.mp h
    exact .inl ⟨_, .attachFont hp hw⟩
  | detachFont => exact .inl ⟨_, .detachFont (of_decide_eq_true h)⟩
  | readPixel x y =>
    by_cases hr : 128 ≤ x.toNat ∨ 64 ≤ y.toNat
    · exact .inl ⟨_, .readPixelRange (of_decide_eq_true h) hr⟩
    · exact .inl ⟨_, .readPixel (of_decide_eq_true h) (by omega) (by omega)⟩

/-- No command faults: it has an effect or it is refused (R53). -/
theorem exec_ne_fault (i : Instr) (s : State) (r : Fault) : exec i s ≠ .fault r := by
  by_cases hp : i.payloadWf s.payload = true
  · obtain ⟨t, ht⟩ | ⟨-, hrefused⟩ := effect_of_payloadWf hp
    · simp [ht.exec_eq]
    · simp [hrefused]
  · obtain ⟨q, hrefused⟩ := exec_refused_of_payload hp
    simp [hrefused]

/-! ## A step at a presented command (R32) -/

theorem step_command_eq {s : State} {c : HostCommand} {i : Instr} (hf : s.fetch = some c)
    (hd : decode c.word = .command i) : step s = finish (exec i s) := by
  simp only [step, hf, hd]

theorem step_illegal_eq {s : State} {c : HostCommand} {op : Byte} (hf : s.fetch = some c)
    (hd : decode c.word = .illegal op) : step s = finish (s.illegal op) := by
  simp only [step, hf, hd]

/-- A step at a command that has an effect makes it and moves the index past the command. -/
theorem step_of_effect {s t : State} {c : HostCommand} {i : Instr} (hf : s.fetch = some c)
    (hd : decode c.word = .command i) (h : Effect i s t) : step s = .next t.advance := by
  rw [step_command_eq hf hd, h.exec_eq]
  rfl

/-- Settles O6: `finish` moves the index after a next state and passes a stop on. -/
theorem stepRunsDecodedCommand : Obligations.StepRunsDecodedCommand := by
  intro s c i hf hd
  rw [step_command_eq hf hd]
  exact ⟨fun _ h => congrArg finish h, fun _ h => congrArg finish h, fun _ h => congrArg finish h⟩

/-- Settles O7: an index past the list fetches nothing. -/
theorem waitsWhenNothingIsPresented : Obligations.WaitsWhenNothingIsPresented := fun _ hpast =>
  step_none (List.getElem?_eq_none hpast)

/-- No step faults (R53). -/
theorem step_ne_fault (s : State) (r : Fault) : step s ≠ .fault r := by
  intro h
  cases hf : s.fetch with
  | none => simp [step_none hf] at h
  | some c =>
    cases hd : decode c.word with
    | command i =>
      rw [step_command_eq hf hd, finish, andThen_eq_fault] at h
      obtain hfault | ⟨t, -, ht⟩ := h
      · exact exec_ne_fault i s r hfault
      · cases ht
    | illegal op =>
      rw [step_illegal_eq hf hd, finish, andThen_eq_fault] at h
      obtain hfault | ⟨t, -, ht⟩ := h
      · cases (State.expectNone_eq_fault.mp hfault).2
      · cases ht

/-- Settles O43: a command has an effect or is refused, and so a step does not fault either. -/
theorem nothingFaults : Obligations.NothingFaults := ⟨exec_ne_fault, step_ne_fault⟩

/-! ## The host's contract (R87) -/

theorem wf_of_command {c : HostCommand} {i : Instr} (hd : decode c.word = .command i) :
    c.wf = i.payloadWf c.payload := by
  simp only [HostCommand.wf, hd]

theorem wf_of_illegal {c : HostCommand} {op : Byte} (hd : decode c.word = .illegal op) :
    c.wf = true ↔ c.payload = .absent := by
  simp only [HostCommand.wf, hd, beq_iff_eq]

/-- With an attached table well-formed, a step at a command the host may present answers a next state (R213). -/
theorem step_answers {s : State} (hfont : s.fontReady) (hwf : ∀ c, s.fetch = some c → c.wf = true) :
    ∃ t, step s = .next t := by
  cases hf : s.fetch with
  | none => exact ⟨s, step_none hf⟩
  | some c =>
    have hc : c.wf = true := hwf c hf
    cases hd : decode c.word with
    | command i =>
      rw [wf_of_command hd, ← State.payload_eq hf] at hc
      obtain ⟨t, ht⟩ | ⟨hnot, -⟩ := effect_of_payloadWf hc
      · exact ⟨_, step_of_effect hf hd ht⟩
      · exact absurd hfont hnot
    | illegal op =>
      rw [wf_of_illegal hd, ← State.payload_eq hf] at hc
      exact ⟨_, step_illegal hf hd (State.illegal_eq op hc)⟩

/-- A command that a step performed is one the host may present (R87). -/
theorem wf_of_step {s t : State} {c : HostCommand} (h : step s = .next t) (hf : s.fetch = some c) : c.wf = true := by
  obtain ⟨hnone, -⟩ | ⟨c', i, u, hf', hd, hu, -⟩ | ⟨c', op, hf', hd, hp, -⟩ := step_effect_cases h
  · cases hf.symm.trans hnone
  · cases hf.symm.trans hf'
    rw [wf_of_command hd, ← State.payload_eq hf]
    exact hu.payloadWf
  · cases hf.symm.trans hf'
    rw [wf_of_illegal hd, ← State.payload_eq hf]
    exact hp

/-- Settles O44: a step is refused iff it answers no next state, and it answers one iff the command is rightly presented. -/
theorem refusedIffIllPresented : Obligations.RefusedIffIllPresented := by
  intro s hfont
  constructor
  · rintro ⟨r, hr⟩
    by_contra hall
    obtain ⟨t, ht⟩ := step_answers hfont fun c hf => by
      by_contra hc
      exact hall ⟨c, hf, Bool.eq_false_iff.mpr hc⟩
    cases hr.symm.trans ht
  · rintro ⟨c, hf, hc⟩
    cases h : step s with
    | next t => simp [wf_of_step h hf] at hc
    | fault r => exact absurd h (step_ne_fault s r)
    | refused r => exact ⟨r, rfl⟩

/-- Settles O45: the command fetched is one of the list, so the step answers; it keeps the table and the list. -/
theorem contractHostNeverStops : Obligations.ContractHostNeverStops := by
  intro s hfont hwf
  obtain ⟨t, ht⟩ := step_answers hfont fun c hf => hwf c (List.mem_of_getElem? hf)
  exact ⟨t, ht, step_keeps_fontReady ht hfont, step_keeps_program ht⟩

end Sys2Proof.Machine

/-!
PROOFS. Lines and pixels: DRAW_HLINE (R133, R135, R138), and the composer's inverse and page formula (R131, R134).
-/

namespace Sys2Proof.Machine

/-! ## A line drawn in a Buffer -/

/-- The Buffer after DRAW_HLINE y (R133); `exec_drawHline` says so. -/
def Memory.drawLine (m : Memory) (y : Nat) : Memory :=
  m.writeRun (132 * (y / 8)) ((m.readRun (132 * (y / 8)) spanWidth).map (· ||| bitMask y))

/-- DRAW_HLINE of a visible row draws its line, marks Dirty and answers OK. -/
theorem exec_drawHline {s : State} {y : Byte} (hp : s.payload = .absent) (hy : y.toNat < 64) :
    exec (.drawHline y) s = .next { s with
      buffer := s.buffer.drawLine y.toNat, dirty := true, responses := s.responses ++ [⟨.ok, 0⟩] } :=
  (Effect.drawHline hp hy).exec_eq

/-- The line's bit is ORed into the 129 cells of its page, and every other cell is as it was (R133). -/
theorem Memory.read_drawLine (m : Memory) (y i : Nat) :
    (m.drawLine y).read i =
      if 132 * (y / 8) ≤ i ∧ i ≤ 132 * (y / 8) + 128 then m.read i ||| bitMask y else m.read i := by
  have hspan : i < 132 * (y / 8) + spanWidth ↔ i ≤ 132 * (y / 8) + 128 := by rw [spanWidth_eq]; omega
  exact (Memory.read_modify m _ _ _ i).trans (by simp only [hspan])

/-- Settles O19: DRAW_HLINE's effect is its line drawn, or the report of its row; R133's page formula is the composer's. -/
theorem drawHlineResult : Obligations.DrawHlineResult := by
  refine ⟨decode_pack_drawHline, fun s y hp => ⟨fun hy => ?_, fun hy => (Effect.drawHlineRange hp hy).exec_eq⟩⟩
  refine ⟨_, exec_drawHline hp hy, fun i => ?_, rfl⟩
  have hpage : y.toNat * 8 / 64 = y.toNat / 8 := linePage_eq y.toNat
  rw [hpage]
  exact Memory.read_drawLine s.buffer y.toNat i

/-- The mask has the one bit of its row (R130). -/
theorem bitMask_getLsbD (y b : Nat) : (bitMask y).getLsbD b = decide (b = y % 8) := by
  rw [BitVec.getLsbD, bitMask_toNat, Nat.testBit_two_pow]
  exact decide_eq_decide.mpr eq_comm

/-- The line drawn, bit by bit: no bit is cleared (R135). -/
theorem Memory.drawLine_getLsbD (m : Memory) (y i b : Nat) :
    ((m.drawLine y).read i).getLsbD b =
      ((m.read i).getLsbD b ||
        (decide (132 * (y / 8) ≤ i ∧ i ≤ 132 * (y / 8) + 128) && decide (b = y % 8))) := by
  rw [Memory.read_drawLine]
  by_cases hin : 132 * (y / 8) ≤ i ∧ i ≤ 132 * (y / 8) + 128
  · rw [if_pos hin, BitVec.getLsbD_or, bitMask_getLsbD, decide_eq_true hin, Bool.true_and]
  · rw [if_neg hin, decide_eq_false hin, Bool.false_and, Bool.or_false]

/-- A line drawn twice is the line drawn once (R135). -/
theorem Memory.read_drawLine_drawLine (m : Memory) (y i : Nat) :
    ((m.drawLine y).drawLine y).read i = (m.drawLine y).read i := by
  rw [Memory.read_drawLine, Memory.read_drawLine]
  split
  · rw [BitVec.or_assoc, BitVec.or_self]
  · rfl

/-- Settles O20: the line bit by bit, and the line drawn again. -/
theorem linesOnlySetBits : Obligations.LinesOnlySetBits := by
  intro s t y hy h
  have hp : s.payload = .absent := of_decide_eq_true (exec_effect h).payloadWf
  cases (exec_drawHline hp hy).symm.trans h
  exact ⟨fun i b _ => Memory.drawLine_getLsbD s.buffer y.toNat i b,
    _, exec_drawHline hp hy, Memory.read_drawLine_drawLine s.buffer y.toNat⟩

/-! ## A line read back (R138) -/

/-- The pixel is its bit of its cell, as a number (R130). -/
theorem pixelAt_eq_toNat (s : State) (x y : Nat) :
    pixelAt s x y = ((s.buffer.read (cellIndex x y)).getLsbD (bitIndex y)).toNat := by
  rw [pixelAt_eq, BitVec.getLsbD, Nat.toNat_testBit, Nat.shiftRight_eq_div_pow]

/-- READ_PIXEL of a visible pixel answers it and changes nothing else (R132). -/
theorem exec_readPixel {s : State} {x y : Byte} (hp : s.payload = .absent) (hx : x.toNat < 128) (hy : y.toNat < 64) :
    exec (.readPixel x y) s = .next { s with responses := s.responses ++ [⟨.ok, pixelAt s x.toNat y.toNat⟩] } :=
  (Effect.readPixel hp hx hy).exec_eq

/-- After CLEAR every cell of the Buffer reads 0 (R110). -/
theorem Memory.read_cleared (m : Memory) {i : Nat} (hi : i < 1056) :
    (m.writeRun 0 (List.replicate Config.bufferCount 0#8)).read i = 0#8 := by
  rw [Memory.read_fill, Nat.zero_add]
  exact if_pos ⟨Nat.zero_le i, hi⟩

/-- In a Buffer whose cells were all 0, the visible pixels set by a line are those of its row (R138). -/
theorem pixelAt_drawLine {s : State} {m : Memory} {x y y' : Nat} (hs : s.buffer = m.drawLine y)
    (hm : ∀ i, i < 1056 → m.read i = 0#8) (hx : x < 128) (hy' : y' < 64) :
    pixelAt s x y' = if y' = y then 1 else 0 := by
  have hcell : cellIndex x y' < 1056 := Nat.lt_of_le_of_lt (cellIndex_le hx hy') (by decide)
  have hrow : (132 * (y / 8) ≤ 132 * (y' / 8) + x ∧ 132 * (y' / 8) + x ≤ 132 * (y / 8) + 128) ∧ y' % 8 = y % 8 ↔
      y' = y := by omega
  rw [pixelAt_eq_toNat, hs, Memory.drawLine_getLsbD, hm _ hcell,
    BitVec.getLsbD_zero, Bool.false_or, cellIndex_eq, bitIndex_eq, ← Bool.decide_and]
  simp only [hrow, Bool.toNat, Bool.cond_decide]

/-- READ_PIXEL after a line in such a Buffer answers 1 in the line's row and 0 in every other (R138). -/
theorem exec_readPixel_of_line {s : State} {m : Memory} {x' y' y : Byte} (hp : s.payload = .absent)
    (hs : s.buffer = m.drawLine y.toNat) (hm : ∀ i, i < 1056 → m.read i = 0#8) (hx' : x'.toNat < 128)
    (hy' : y'.toNat < 64) :
    exec (.readPixel x' y') s = .next { s with
      responses := s.responses ++ [⟨.ok, if y' = y then 1 else 0⟩] } := by
  rw [exec_readPixel hp hx' hy', pixelAt_drawLine hs hm hx' hy']
  simp only [BitVec.toNat_inj]

/-- Settles O21: CLEAR leaves every cell 0, so the pixels set after the line are the line's. -/
theorem lineAfterClear : Obligations.LineAfterClear := by
  intro s y hp hy
  exact ⟨_, _, (Effect.clear hp).exec_eq, exec_drawHline hp hy, fun x' y' =>
    exec_readPixel_of_line hp rfl fun _ => Memory.read_cleared s.buffer⟩

/-! ## The composer's inverse and the page formula (R131, R134) -/

/-- Settles O16: a visible pixel's cell and bit give back its column and its row, and a visible cell's bit its pixel. -/
theorem composerBijection : Obligations.ComposerBijection := by
  refine ⟨fun x y hx hy => ?_, fun i b hi hcol hb => ?_⟩
  · have hle := cellIndex_le hx hy
    have hmod := cellIndex_mod y hx
    rw [cellIndex_eq] at *
    rw [bitIndex_eq]
    omega
  · rw [cellIndex_eq, bitIndex_eq]
    omega

/-- Settles O17: the line drawer's page is the composer's. -/
theorem pageFormulasAgree : Obligations.PageFormulasAgree := by
  intro y hy
  refine ⟨linePage_eq y, linePage_eq y, ?_⟩
  rw [linePage_eq]
  omega

end Sys2Proof.Machine

/-!
PROOFS. FLUSH and the data channel (R181 to R188), and LOAD_IMAGE sent by it (R115).
-/

namespace Sys2Proof.Machine

/-! ## FLUSH (R182) -/

/-- Reporting no event changes nothing. -/
theorem State.report_nil (s : State) : s.report [] = s := by
  rw [State.report, List.append_nil]

theorem exec_flush_clean {s : State} (hp : s.payload = .absent) (hd : s.dirty = false) :
    exec .flush s = .next { s with responses := s.responses ++ [⟨.ok, 0⟩] } :=
  (Effect.flushClean hp hd).exec_eq

theorem exec_flush_ok {s : State} (hp : s.payload = .absent) (hd : s.dirty = true) (ha : s.nextAnswer = .ok) :
    exec .flush s = .next { s with
      dirty := false
      chan := s.chan ++ [⟨.data, s.serialize, .ok⟩]
      answers := s.answers.tail
      responses := s.responses ++ [⟨.ok, 0⟩] } := by
  rw [← ha]
  exact (Effect.flushOk hp hd ha).exec_eq

theorem exec_flush_fail {s : State} {n : Fin 1057} (hp : s.payload = .absent) (hd : s.dirty = true)
    (ha : s.nextAnswer = .fail n) :
    exec .flush s = .next { s with
      chan := s.chan ++ [⟨.data, s.serialize, .fail n⟩]
      answers := s.answers.tail
      responses := s.responses ++ [⟨.errTx, 0⟩] } := by
  rw [← ha, (Effect.flushFail hp hd ha).exec_eq, State.report_nil]
  rfl

/-- The channel's answer is the next one the environment lists (R181). -/
theorem State.nextAnswer_of_listed {s : State} {ans : ChanAnswer} {later : List ChanAnswer}
    (h : s.answers = ans :: later) : s.nextAnswer = ans := by
  simp only [State.nextAnswer, h]

/-- Settles O32: FLUSH's three effects, with the serialization written as the cells in index order. -/
theorem flushResult : Obligations.FlushResult := by
  refine ⟨decode_pack_flush, fun s hp => ?_⟩
  rw [← State.serialize_eq_map]
  exact ⟨exec_flush_clean hp, exec_flush_ok hp, fun _ => exec_flush_fail hp, fun _ _ => State.nextAnswer_of_listed⟩

/-- Settles O33: the frame of a transaction that the channel took whole. -/
theorem flushIsOneFrame : Obligations.FlushIsOneFrame := by
  intro s hp hd ha
  refine ⟨_, _, exec_flush_ok hp hd ha, rfl, ?_⟩
  rw [Transaction.frame, Transaction.taken_ok, State.serialize_eq_map, List.map_map]
  rfl

/-- Settles O51: the frame of a transaction that the channel took `n` bytes of. -/
theorem failedFlushFrame : Obligations.FailedFlushFrame := by
  intro s n hp hd ha
  refine ⟨_, _, exec_flush_fail hp hd ha, rfl, rfl, ?_⟩
  rw [Transaction.frame, Transaction.taken_fail, State.serialize_eq_map, ← List.map_take, List.take_range,
    Nat.min_eq_left (Nat.le_of_lt_succ n.isLt), List.map_map]
  rfl

/-- Settles O34: the first FLUSH leaves Dirty 0, so the second one does nothing. -/
theorem flushTwiceSendsOnce : Obligations.FlushTwiceSendsOnce := by
  intro s hp hd ha
  exact ⟨_, _, exec_flush_ok hp hd ha, exec_flush_clean hp rfl, List.length_append, rfl, rfl, rfl, rfl,
    List.append_assoc ..⟩

/-- Settles O35: a failed FLUSH uses up the failure and keeps Dirty, so the retry meets the `ok` and sends the Buffer with
the line in it. -/
theorem retrySendsTheCurrentBuffer : Obligations.RetrySendsTheCurrentBuffer := by
  intro s n y later hp hd hanswers hy
  have hretry : s.answers.tail = .ok :: later := by rw [hanswers, List.tail_cons]
  refine ⟨_, _, _, exec_flush_fail hp hd (State.nextAnswer_of_listed hanswers), hd, rfl, exec_drawHline hp hy,
    exec_flush_ok hp rfl (State.nextAnswer_of_listed hretry), rfl, List.append_assoc .., ?_⟩
  simp only [List.append_assoc, List.cons_append, List.nil_append]

/-! ## LOAD_IMAGE and then FLUSH (R115) -/

theorem decode_of_op_loadImage {w : CommandWord} (h : opField w = 0x03) : decode w = .command .loadImage := by
  rw [decode, h]; rfl

theorem decode_of_op_flush {w : CommandWord} (h : opField w = 0x07) : decode w = .command .flush := by
  rw [decode, h]; rfl

/-- A run read where it was written is the run. -/
theorem Memory.readRun_writeRun (m : Memory) (a : Nat) (bs : List Byte) :
    (m.writeRun a bs).readRun a bs.length = bs := by
  refine List.ext_getElem (Memory.readRun_length ..) fun k hk hk' => ?_
  rw [Memory.readRun_getElem, Memory.read_writeRun_inside m a bs k hk']

/-- A step at a FLUSH that the channel answers with `ok` sends the Buffer and cleans it (R182). -/
theorem step_flush_ok {s : State} {w : CommandWord} (hf : s.fetch = some ⟨w, .absent⟩) (hop : opField w = 0x07)
    (hd : s.dirty = true) (ha : s.nextAnswer = .ok) :
    step s = .next { s with
      dirty := false
      chan := s.chan ++ [⟨.data, s.serialize, .ok⟩]
      answers := s.answers.tail
      responses := s.responses ++ [⟨.ok, 0⟩]
      pc := s.pc + 1 } := by
  rw [step_command_eq hf (decode_of_op_flush hop), exec_flush_ok (State.payload_eq hf) hd ha]
  rfl

/-- Settles O14: the Buffer serializes to the blob written over all of it, and FLUSH sends that serialization. -/
theorem loadImageRoundTrip : Obligations.LoadImageRoundTrip := by
  intro s w w' blob later hf hop hl hf' hop' hanswers
  have hload := step_of_effect hf (decode_of_op_loadImage hop) (.loadImage (State.payload_eq hf) hl)
  have hblob : (s.buffer.writeRun 0 blob).readRun 0 Config.bufferCount = blob :=
    (congrArg _ hl.symm).trans (Memory.readRun_writeRun s.buffer 0 blob)
  refine ⟨_, _, hload, hblob, step_flush_ok hf' hop' rfl (State.nextAnswer_of_listed hanswers), ?_, rfl, hblob,
    List.append_assoc ..⟩
  exact congrArg (fun bytes => s.chan ++ [⟨.data, bytes, .ok⟩]) hblob

end Sys2Proof.Machine

/-!
PROOFS. Attaching a font (R153), text cell by cell (R157 to R162), and the commands that write padding cells (R23).
-/

namespace Sys2Proof.Machine

/-- Settles O22: ATTACH_FONT's check of the table is R151's sentence; its effect attaches the table, else it is refused. -/
theorem attachFontResult : Obligations.AttachFontResult := by
  refine ⟨decode_pack_attachFont, fun s first last g hp => ⟨fun hentries hlength => ?_, fun hill => ?_⟩⟩
  · exact (Effect.attachFont hp ((tableWf_iff first last g).mpr ⟨hentries, hlength⟩)).exec_eq
  · exact State.expectTable_malformed _ hp (mt (tableWf_iff first last g).mp hill)

/-! ## What DRAW_TEXT leaves -/

/-- With a font attached, a DRAW_TEXT that completes writes its columns in the clamped row, cut at column 128, and reports
its events (R155). -/
theorem drawText_next {s t : State} {row : Byte} {len : Len} {chars : List Byte} (hp : s.payload = .message chars)
    (hf : s.fontAttached = true) (h : exec (.drawText row len) s = .next t) :
    t.buffer = s.buffer.writeRun (132 * clampRow row) ((textColumns s chars).take 128) ∧
      t.diagLog = s.diagLog ++ textEvents s chars := by
  cases exec_effect h with
  | textNoFont _ _ hnone => simp [hf] at hnone
  | text hp' =>
    cases hp.symm.trans hp'
    exact ⟨rfl, rfl⟩

/-- One character emits as many columns as it advances (R158, R159). -/
theorem charColumns_length (s : State) (ch : Byte) : (charColumns s ch).length = advanceOf s ch := by
  by_cases hin : inRange s ch
  · rw [charColumns_mapped ((mapped_iff s ch).mpr hin), advanceOf, if_pos hin, List.length_append, glyphColumns_length]
    rfl
  · rw [charColumns_unmapped (Bool.eq_false_iff.mpr (mt (mapped_iff s ch).mp hin)), advanceOf, if_neg hin,
      List.length_replicate]

theorem textColumns_length (s : State) (chars : List Byte) :
    (textColumns s chars).length = (chars.map (advanceOf s)).sum := by
  rw [textColumns, List.length_flatMap]
  simp only [charColumns_length]

/-- Settles O25: DRAW_TEXT's run has the length of its characters' advances, DRAW_CHAR's that of its glyph; both are cut at
column 128. -/
theorem textWritesItsRowOnly : Obligations.TextWritesItsRowOnly := by
  refine ⟨fun s t row len chars hp hf h i hout => ?_, fun s t code x row h i hout => ?_⟩
  · rw [(drawText_next hp hf h).1, clampRow_eq, Memory.read_writeRun_take, textColumns_length]
    exact if_neg (by omega)
  · cases exec_effect h with
    | charNothing => rfl
    | char =>
      refine (read_glyph_run s code _ x.toNat i).trans (if_neg ?_)
      rwa [clampRow_eq]

/-- The loop's test of an event is the model's (R161). -/
theorem textEvents_eq_filter (s : State) (chars : List Byte) :
    textEvents s chars =
      (chars.filter fun ch => decide (¬ inRange s ch ∧ ch ≠ 0x20#8)).map DiagEvent.unmappedGlyph := by
  refine congrArg (List.map _) (List.filter_congr fun ch _ => ?_)
  rw [Bool.eq_iff_iff, decide_eq_true_iff, Bool.and_eq_true, Bool.not_eq_true', bne_iff_ne, ← Bool.not_eq_true,
    mapped_iff]
  rfl

/-- Settles O29: DRAW_TEXT's events are those of the whole message. -/
theorem textReportsEveryUnmappedCharacter : Obligations.TextReportsEveryUnmappedCharacter := by
  intro s t row len chars hp hf h
  rw [(drawText_next hp hf h).2, textEvents_eq_filter]

/-! ## Text overwrites (R162) -/

/-- The same run written in two Buffers: a cell reads alike after, or as it did before in each. -/
theorem Memory.read_writeRun_two (m m' : Memory) (a : Nat) (bs : List Byte) (k : Nat) :
    (m'.writeRun a bs).read k = (m.writeRun a bs).read k ∨
      (m'.writeRun a bs).read k = m'.read k ∧ (m.writeRun a bs).read k = m.read k := by
  rw [Memory.read_writeRun, Memory.read_writeRun]
  split
  · exact .inl rfl
  · exact .inr ⟨rfl, rfl⟩

/-- A text command's columns are read off the table and the message: with another Buffer before, it has the same effect but
for the Buffer, and that one is overwritten alike (R162). -/
theorem Effect.of_other_buffer {i : Instr} {s t : State} (h : Effect i s t)
    (hi : (∃ row len, i = .drawText row len) ∨ ∃ code x row, i = .drawChar code x row) (m : Memory) :
    ∃ m', Effect i { s with buffer := m } { t with buffer := m' } ∧ ∀ k,
      m'.read k = t.buffer.read k ∨ m'.read k = m.read k ∧ t.buffer.read k = s.buffer.read k := by
  obtain ⟨row, len, rfl⟩ | ⟨code, x, row, rfl⟩ := hi
  · cases h with
    | textNoFont hp hl hf => exact ⟨m, .textNoFont hp hl hf, fun _ => .inr ⟨rfl, rfl⟩⟩
    | text hp hl hf hw => exact ⟨_, .text hp hl hf hw, Memory.read_writeRun_two s.buffer m _ _⟩
  · cases h with
    | charNothing hp hn => exact ⟨m, .charNothing hp hn, fun _ => .inr ⟨rfl, rfl⟩⟩
    | char hp hf hm hw => exact ⟨_, .char hp hf hm hw, Memory.read_writeRun_two s.buffer m _ _⟩

/-- Settles O26: the effect with the other Buffer is the one the command answers. -/
theorem textIgnoresOldCells : Obligations.TextIgnoresOldCells := by
  intro i s t m hi h
  obtain ⟨m', h', hcells⟩ := (exec_effect h).of_other_buffer hi m
  exact ⟨_, h'.exec_eq, rfl, hcells⟩

/-! ## A message of one character (R158, R159) -/

theorem textColumns_singleton (s : State) (ch : Byte) : textColumns s [ch] = charColumns s ch := by
  rw [textColumns_cons, textColumns_nil, List.append_nil]

/-- The event of one unmapped character, unless it is a space (R158). -/
theorem textEvents_unmapped {s : State} {ch : Byte} (hm : mapped s ch = false) :
    textEvents s [ch] = if ch = 0x20#8 then [] else [.unmappedGlyph ch] := by
  rw [textEvents_cons, hm, textEvents_nil, List.append_nil]
  by_cases hspace : ch = 0x20#8 <;> simp [hspace, Config.spaceCode]

/-- A mapped character has no event (R159). -/
theorem textEvents_mapped {s : State} {ch : Byte} (hm : mapped s ch = true) : textEvents s [ch] = [] := by
  rw [textEvents_cons, hm]
  rfl

/-- Settles O27: an unmapped character's columns are five zeros. -/
theorem unmappedCharacterIsFiveBlanks : Obligations.UnmappedCharacterIsFiveBlanks := by
  intro s row ch hp hf hw hout
  have hm : mapped s ch = false := Bool.eq_false_iff.mpr (mt (mapped_iff s ch).mp hout)
  have hcols : (textColumns s [ch]).take 128 = List.replicate 5 0#8 := by
    rw [textColumns_singleton, charColumns_unmapped hm, List.take_replicate]
    rfl
  have hexec := (Effect.text (row := row) (len := 1) hp rfl hf hw).exec_eq
  rw [hcols, textEvents_unmapped hm, clampRow_eq] at hexec
  refine ⟨_, hexec, fun k => (Memory.read_fill s.buffer _ 5 0#8 _).trans ?_, rfl⟩
  exact if_congr (by omega) rfl rfl

/-- The columns of a mapped code are its table entry after the width byte (R150, R151). -/
theorem glyphColumns_eq_cols {s : State} {code width : Byte} {cols : List Byte}
    (hentry : s.glyphs[code.toNat - s.startChar.toNat]? = some (width :: cols)) (hlen : cols.length = width.toNat) :
    glyphColumns s code = cols := by
  have hread : ∀ k, glyphRead s (code.toNat - s.startChar.toNat) k = (width :: cols).getD k 0#8 := fun k => by
    rw [glyphRead, List.getD_eq_getElem?_getD (l := s.glyphs), hentry]
    rfl
  refine List.ext_getElem (by rw [glyphColumns_length, hread, hlen]; rfl) fun k hk hk' => ?_
  simp only [glyphColumns, List.getElem_map, List.getElem_range, hread, Nat.add_comm 1 k, List.getD_cons_succ]
  exact List.getD_eq_getElem _ _ hk'

/-- An entry of a well-formed table has as many columns as its width byte says (R151). -/
theorem entry_length {first last width : Byte} {cols : List Byte} {g : GlyphTable} {n : Nat}
    (hw : tableWf first last g = true) (hentry : g[n]? = some (width :: cols)) : cols.length = width.toNat := by
  have hlen := ((tableWf_iff first last g).mp hw).1 _ (List.mem_of_getElem? hentry)
  rw [List.length_cons, List.getD_cons_zero] at hlen
  omega

/-- Settles O28: a mapped character's columns are its table entry and one zero, cut at column 128. -/
theorem mappedCharacterIsItsGlyphAndSpacer : Obligations.MappedCharacterIsItsGlyphAndSpacer := by
  intro s row ch width cols hp hf hw hin hentry
  have hm : mapped s ch = true := (mapped_iff s ch).mpr hin
  have hlen := entry_length hw hentry
  have hexec := (Effect.text (row := row) (len := 1) hp rfl hf hw).exec_eq
  rw [textColumns_singleton, charColumns_mapped hm, glyphColumns_eq_cols hentry hlen, textEvents_mapped hm,
    State.report_nil, clampRow_eq] at hexec
  refine ⟨_, hexec, fun k hk => ?_, fun k hk => ?_, rfl⟩
  · refine (Memory.read_writeRun_take s.buffer _ 128 _ _).trans ?_
    rw [Nat.add_sub_cancel_left, List.length_append, hlen, List.length_singleton]
    rcases Nat.lt_trichotomy k width.toNat with hlt | heq | hgt
    · rw [if_pos (by omega), if_pos hlt, List.getD_append _ _ _ _ (by omega)]
    · rw [if_pos (by omega), if_neg (by omega), if_pos heq, List.getD_append_right _ _ _ _ (by omega), hlen, heq,
        Nat.sub_self]
      rfl
    · rw [if_neg (by omega), if_neg (by omega), if_neg (by omega)]
  · exact (Memory.read_writeRun_take s.buffer _ 128 _ _).trans (if_neg (by omega))

/-! ## The clamped row (R156) -/

/-- A row of 8 or more starts and ends where row 7 does. -/
theorem rowBase_clamped {row : Byte} (h : 8 ≤ row.toNat) : rowBase row = rowBase 7 := by
  have hseven : (7 : Byte).toNat = 7 := rfl
  rw [rowBase_eq, rowBase_eq, clampRow_eq, clampRow_eq, hseven]
  omega

/-- Settles O30: a text command reads its row through the row's first cell only. -/
theorem textRowIsClamped : Obligations.TextRowIsClamped := by
  intro s row h
  refine ⟨fun len => ?_, fun code x => ?_⟩
  · simp only [exec, execDrawText, rowEnd_eq, rowBase_clamped h]
  · simp only [exec, execDrawChar, rowEnd_eq, rowBase_clamped h]

/-! ## Who writes the padding cells (R23) -/

/-- The cells a command may change. -/
def mayChange : Instr → Nat → Prop
  | .clear, _ | .loadImage, _ => True
  | .clearRow row, k => 132 * row.toNat ≤ k ∧ k ≤ 132 * row.toNat + 128
  | .drawHline y, k => y.toNat < 64 ∧ 132 * (y.toNat / 8) ≤ k ∧ k ≤ 132 * (y.toNat / 8) + 128
  | .drawText row _, k | .drawChar _ _ row, k => 132 * clampRow row ≤ k ∧ k < 132 * clampRow row + 128
  | .flush, _ | .attachFont _ _, _ | .detachFont, _ | .readPixel _ _, _ => False

/-- A cell that a written run changed lies in the run. -/
theorem Memory.mem_run_of_changed {m : Memory} {a : Nat} {bs : List Byte} {k : Nat}
    (h : (m.writeRun a bs).read k ≠ m.read k) : a ≤ k ∧ k < a + bs.length := by
  by_contra hout
  exact h (Memory.read_writeRun_outside m a bs k (by omega))

/-- A cell that a command changed is one it may change (R112, R136, R157). -/
theorem Effect.changed_cell {i : Instr} {s t : State} (h : Effect i s t) {k : Nat}
    (hne : t.buffer.read k ≠ s.buffer.read k) : mayChange i k := by
  cases h with
  | clear | loadImage => trivial
  | clearRow =>
    obtain ⟨hlo, hhi⟩ := Memory.mem_run_of_changed hne
    rw [List.length_replicate, spanWidth_eq] at hhi
    exact ⟨hlo, Nat.le_of_lt_succ hhi⟩
  | drawHline _ hy =>
    obtain ⟨hlo, hhi⟩ := Memory.mem_run_of_changed hne
    rw [List.length_map, Memory.readRun_length, spanWidth_eq] at hhi
    exact ⟨hy, hlo, Nat.le_of_lt_succ hhi⟩
  | text =>
    obtain ⟨hlo, hhi⟩ := Memory.mem_run_of_changed hne
    rw [List.length_take] at hhi
    exact ⟨hlo, by omega⟩
  | char =>
    obtain ⟨hlo, hhi⟩ := Memory.mem_run_of_changed hne
    rw [List.length_take] at hhi
    exact ⟨by omega, by omega⟩
  | clearRowRange | drawHlineRange | textNoFont | charNothing | flushClean | flushOk | flushFail | attachFont
  | detachFont | readPixel | readPixelRange => exact absurd rfl hne

/-- Settles O39: of the cells each command may change, those of columns 128 to 131. -/
theorem paddingWriters : Obligations.PaddingWriters := by
  intro i s t h
  refine ⟨fun p col hp hlo hhi hne => ?_, fun p hp hne => ?_⟩
  · have hcell := (exec_effect h).changed_cell hne
    cases i with
    | clear => exact .inl rfl
    | loadImage => exact .inr rfl
    | clearRow | drawHline | drawText | drawChar => simp only [mayChange] at hcell; omega
    | flush | attachFont | detachFont | readPixel => exact hcell.elim
  · have hcell := (exec_effect h).changed_cell hne
    cases i with
    | clear => exact .inl rfl
    | loadImage => exact .inr (.inl rfl)
    | clearRow row =>
      simp only [mayChange] at hcell
      exact .inr (.inr (.inl ⟨row, rfl, by omega⟩))
    | drawHline y =>
      simp only [mayChange] at hcell
      exact .inr (.inr (.inr ⟨y, rfl, by omega, by omega⟩))
    | drawText | drawChar => simp only [mayChange] at hcell; omega
    | flush | attachFont | detachFont | readPixel => exact hcell.elim

end Sys2Proof.Machine
